-- ==== Sys2Proof/Word.lean ====
section
/-! DEFINITION. The fixed-width unsigned types of the block (spec 00_scope.md R7, 10_state.md R23): bit 0 is the
least significant bit, no value is signed. Only types and their plainest conversions stand here. -/

namespace Sys2Proof

/-- `U4`: channel and group numbers (R23). -/
abbrev U4 := BitVec 4
/-- `U7`: MIDI 1.0 data values (R23). -/
abbrev U7 := BitVec 7
/-- `U8`: one byte of a MIDI 1.0 stream or of a UMP word (R7: a byte is a `U8`). -/
abbrev Byte := BitVec 8
/-- `U14`: pitch bend and song position (R23). -/
abbrev U14 := BitVec 14
/-- `U16`: MIDI 2.0 velocity, attribute data, jitter-reduction time (R24, R28, R37). -/
abbrev U16 := BitVec 16
/-- `U25`: the source's 25-bit wrapper (R23); only MAKE_UINT builds one. -/
abbrev U25 := BitVec 25
/-- `U32`: one UMP word (R7: a word is a `U32`). -/
abbrev Word := BitVec 32
/-- `U64`: the opaque timestamp, `TS_WIDTH = 64` (R6, R81). -/
abbrev U64 := BitVec 64

/-- `zext_8` of a 7-bit value (R7): bit 7 is clear, so the result is a data byte (R93). -/
abbrev U7.byte (v : U7) : Byte := v.setWidth 8
/-- The low 7 bits of a byte, `b[6:0]`. -/
abbrev Byte.low7 (b : Byte) : U7 := b.setWidth 7

end Sys2Proof
end

