-- ==== Sys2Proof/Config.lean ====
section
/-! DEFINITION. The block's build-time parameters (spec 00_scope.md R6), as plain data. They are fixed when an
instance is built; no operation reads them out or writes them. The OPEN ones (`N_CTX`, `SYSEX_MAX`,
`MFR_REGISTRY`) stay arguments: a machine is built from any `Params` and any number of contexts, and
every statement about a state holds for every value of them. `Params.reference` and `refNCtx` are the
reference values that 92_eei_decisions.md gives (log entry 2). -/

namespace Sys2Proof

/-- `MFR_REGISTRY` (R6, R48, R293) as data: `struct` is `REG_STRUCT`; `table` lists the registered IDs, so any pair
of predicates on the finite ID sets is one of these (log entry 14). -/
inductive Registry where
  /-- R293's reference registry: every structurally possible ID. -/
  | struct
  /-- Exactly the listed 1-byte IDs and 3-byte IDs `00 b1 b2`. -/
  | table (ids1 : List U7) (ids3 : List (U7 × U7))
  deriving DecidableEq, Repr

/-- `reg1 : U7 -> Bool` (R6, R293). -/
def Registry.reg1 : Registry → U7 → Bool
  | .struct, b => decide (0x01 ≤ b.toNat ∧ b.toNat ≤ 0x7D)
  | .table ids _, b => ids.contains b

/-- `reg3 : U7 x U7 -> Bool` (R6, R293). -/
def Registry.reg3 : Registry → U7 → U7 → Bool
  | .struct, b1, b2 => !(b1 == 0 && b2 == 0)
  | .table _ ids, b1, b2 => ids.contains (b1, b2)

/-- R293: any registry must satisfy `reg1(0x00) = reg1(0x7E) = reg1(0x7F) = false`. -/
def Registry.ok (r : Registry) : Bool :=
  !r.reg1 0x00 && !r.reg1 0x7E && !r.reg1 0x7F

/-- The parameters of R6 that operations depend on. `N_CTX` is the length of the machine's context list. The width
of a timestamp (64) and the range policy (fail) are fixed by R6 and have no field. -/
structure Params where
  /-- `SYSEX_MAX`; `none` is unbounded (D25). -/
  sysexMax : Option Nat
  /-- `MFR_REGISTRY` (D26). -/
  registry : Registry
  /-- `NOTEON_V0_AS_NOTEOFF` (D14). -/
  noteOnV0AsNoteOff : Bool
  /-- `PARSER_GROUP[c]` for `c = 0, 1, ..`; a context past the end of the list has group 0 (D23). -/
  parserGroups : List U4
  deriving DecidableEq, Repr

/-- `PARSER_GROUP[c]` (R6). -/
def Params.parserGroup (p : Params) (c : Nat) : U4 := p.parserGroups.getD c 0

/-- The decided and reference values of R6: `SYSEX_MAX` unbounded, `REG_STRUCT`, `NOTEON_V0_AS_NOTEOFF = false`,
`PARSER_GROUP = 0` for every context. -/
def Params.reference : Params where
  sysexMax := none
  registry := .struct
  noteOnV0AsNoteOff := false
  parserGroups := []

/-- The reference value of `N_CTX` (92_eei_decisions.md, "Open parameters"). -/
def refNCtx : Nat := 1

end Sys2Proof
end

