-- ==== Sys2Proof/Syntax.lean ====
section
/-! DEFINITION. Everything that crosses the command port (spec 10_state.md, 30_encoding.md R90): value types, the
event model, filters, results, and `Instr`, one constructor per row of opcode_table.json. The command
rows are R90's operations. A MIDI 1.0 row is one message of an incoming byte stream, with the context
and timestamp its bytes are fed with; a UMP row is one incoming UMP message, named by its first packet
(log entry 3). -/

namespace Sys2Proof

/-- A dual-resolution value with low width `L` and high width `H` (R24 to R26). -/
inductive Dual (L H : Nat) where
  /-- MIDI 1.0 resolution. -/
  | m1 (v : BitVec L)
  /-- MIDI 2.0 resolution. -/
  | m2 (u : BitVec H)
  deriving DecidableEq, Repr

/-- Velocity (R24). -/
abbrev V7_16 := Dual 7 16
/-- Controller values and pressures (R25). -/
abbrev V7_32 := Dual 7 32
/-- Pitch bend (R26). -/
abbrev V14_32 := Dual 14 32

/-- The per-note attribute pair (R28); `(0, 0)` is "no attribute". -/
structure Attr where
  atype : Byte
  adata : U16
  deriving DecidableEq, Repr

/-- No attribute (R28, R213). -/
abbrev Attr.none : Attr := ⟨0, 0⟩

/-- The per-note controller (R30). -/
inductive PNC where
  | registered (i : Byte)
  | assignable (i : Byte)
  deriving DecidableEq, Repr

/-- The SysEx identifier (R31). That `reg1` or `reg3` admits the ID is a check of `WellFormed` (log entry 6). -/
inductive SysExID where
  | mfr1 (b : U7)
  | mfr3 (b1 b2 : U7)
  | universal (rt : Bool)
  deriving DecidableEq, Repr

/-- The closed event model (R32 to R37). Fields stand in the order of 95_test_vectors.md section 0, group last. -/
inductive Event where
  -- ChanVoice (R33)
  | noteOn (note : U7) (vel : V7_16) (attr : Attr) (ch g : U4)
  | noteOff (note : U7) (vel : V7_16) (attr : Attr) (ch g : U4)
  | notePressure (note : U7) (amount : V7_32) (ch g : U4)
  | cc (controller : U7) (value : V7_32) (ch g : U4)
  | programChange (program : U7) (bank : Option (U7 × U7)) (ch g : U4)
  | pressure (amount : V7_32) (ch g : U4)
  | pitchBend (value : V14_32) (ch g : U4)
  | notePitchBend (note : U7) (value : Word) (ch g : U4)
  | noteCC (note : U7) (controller : PNC) (value : Word) (ch g : U4)
  -- SystemCommon (R34)
  | timecodeQuarterFrame (dataByte : U7) (g : U4)
  | songPositionPointer (midiBeat : U14) (g : U4)
  | songSelect (number : U7) (g : U4)
  | tuneRequest (g : U4)
  -- SystemRealTime (R35)
  | timingClock (g : U4)
  | start (g : U4)
  | stop (g : U4)
  | continue_ (g : U4)
  | activeSensing (g : U4)
  | systemReset (g : U4)
  -- SysEx (R36)
  | sysEx7 (id : SysExID) (data : List U7) (g : U4)
  | sysEx8 (id : SysExID) (data : List Byte) (streamID : Byte) (g : U4)
  -- Utility (R37)
  | noOp (g : U4)
  | jrClock (time : U16) (g : U4)
  | jrTimestamp (time : U16) (g : U4)
  deriving DecidableEq, Repr

/-- The five categories (R371). -/
inductive Category where
  | chanVoice | systemCommon | systemRealTime | sysEx | utility
  deriving DecidableEq, Repr

/-- The event types (R371): the variants, with four types in `SysEx` (R38). -/
inductive EvType where
  | noteOn | noteOff | notePressure | cc | programChange | pressure | pitchBend | notePitchBend | noteCC
  | timecodeQuarterFrame | songPositionPointer | songSelect | tuneRequest
  | timingClock | start | stop | continue_ | activeSensing | systemReset
  | sysEx7 | universalSysEx7 | sysEx8 | universalSysEx8
  | noOp | jrClock | jrTimestamp
  deriving DecidableEq, Repr

/-- The filter operations (R372). A type set is a list; a type outside the category never matches. -/
inductive FilterOp where
  | only
  | onlyTypes (T : List EvType)
  | keepTypes (T : List EvType)
  | drop
  | dropTypes (T : List EvType)
  deriving DecidableEq, Repr

/-- A filter is a pair of a category and an operation (R372). -/
structure Filter where
  cat : Category
  op : FilterOp
  deriving DecidableEq, Repr

/-- R92's pseudo-operation `C.onlyType(T)`. -/
abbrev Filter.onlyType (C : Category) (T : EvType) : Filter := ⟨C, .onlyTypes [T]⟩
/-- R92's pseudo-operation `C.keepType(T)`. -/
abbrev Filter.keepType (C : Category) (T : EvType) : Filter := ⟨C, .keepTypes [T]⟩
/-- R92's pseudo-operation `C.dropType(T)`. -/
abbrev Filter.dropType (C : Category) (T : EvType) : Filter := ⟨C, .dropTypes [T]⟩

/-- The protocol operand `P` of ENC_UMP (R230). -/
inductive Protocol where
  | M1 | M2
  deriving DecidableEq, Repr

/-- Reason tags of `Malformed` (R401); `packet` is the check of R264 that has no tag (log entry 7, DESIGN CHOICE, safe). -/
inductive MalTag where
  | noStatus | noEox | statusInBody | statusInData | length | reserved | reservedMT | status | data7 | sequence
  | emptyBody | shortId | unregistered | packet
  deriving DecidableEq, Repr

/-- What an `Unsupported` names (R401): the variant (`sysEx8` for every sysEx8, R195), the MT 0x4 opcode, or the mixed
data form. -/
inductive Unsup where
  | variant (t : EvType)
  | opcode (op : U4)
  | mixedData
  deriving DecidableEq, Repr

/-- The four error kinds (R400). -/
inductive ErrKind where
  | rangeError | empty | malformed | unsupported
  deriving DecidableEq, Repr

/-- The numeric code of an error kind (R400). -/
def ErrKind.code : ErrKind → Nat
  | .rangeError => 1
  | .empty => 2
  | .malformed => 3
  | .unsupported => 4

/-- `Err(kind, reason)` (R400, R401). A `RangeError` carries the width and the offending value. -/
inductive Err where
  | rangeError (width : Nat) (value : Rat)
  | empty
  | malformed (tag : MalTag)
  | unsupported (what : Unsup)
  deriving DecidableEq, Repr

/-- The kind of an error; two error results are equal when their kinds are (R401). -/
def Err.kind : Err → ErrKind
  | .rangeError _ _ => .rangeError
  | .empty => .empty
  | .malformed _ => .malformed
  | .unsupported _ => .unsupported

/-- The codes of parser error items (R404). -/
inductive ErCode where
  | orphan | incomplete | sysexAbort | sysexMalformed | strayEox | reserved | sysexOverflow
  deriving DecidableEq, Repr

/-- The number of a parser error code (R404). -/
def ErCode.num : ErCode → Nat
  | .orphan => 1
  | .incomplete => 2
  | .sysexAbort => 3
  | .sysexMalformed => 4
  | .strayEox => 5
  | .reserved => 6
  | .sysexOverflow => 7

/-- An output item of the parser: an event or an error item (R10, R41). -/
inductive Item where
  | ev (e : Event)
  | er (code : ErCode) (info : List Byte)
  deriving DecidableEq, Repr

/-- The outcome of one operation (R90, R453): a success result of the operation's type, an error result, or
`Refused`. -/
inductive Result where
  /-- RESET returns nothing (R440). -/
  | done
  /-- FEED's list of items, each with its timestamp (R41). -/
  | items (l : List (U64 × Item))
  | bytes (l : List Byte)
  | words (l : List Word)
  | event (e : Event)
  /-- A `U_N`: the width and the value. -/
  | uint (N v : Nat)
  | rational (x : Rat)
  /-- SYSEX_ID's `(id, used)` (R290). -/
  | sysexId (id : SysExID) (used : Nat)
  | classified (c : Category) (t : EvType)
  | events (l : List Event)
  /-- An error result (R400). -/
  | err (e : Err)
  /-- The distinct outcome `Refused` (R406; log entry 1, DEDUCED, safe). -/
  | refused
  deriving DecidableEq, Repr

/-- One constructor per row of opcode_table.json (LAWS.json maps each to its mnemonic). Operands whose type the
spec gives by a side condition (a context index, a width, a `U_N`) are plain numbers; `WellFormed`
checks them and an operation refuses what fails the check (R406). -/
inductive Instr where
  -- commands (R90)
  | reset (ctx : Nat)
  | feed (ctx : Nat) (t : U64) (bytes : List Byte)
  | encM1 (e : Event)
  | encUmp (e : Event) (P : Protocol)
  | decM1 (bytes : List Byte) (g : U4)
  | decUmp (words : List Word)
  | makeUint (N v : Nat)
  | scale (v N M : Nat)
  | toBipolar (v N : Nat)
  | fromBipolar (x : Rat) (N : Nat)
  | toUnipolar (v N : Nat)
  | fromUnipolar (x : Rat) (N : Nat)
  | sysexId (bytes : List Byte) (width : Nat)
  | classify (e : Event)
  | filter (f : Filter) (es : List Event)
  -- MIDI 1.0 channel voice messages (R94, R95)
  | m1NoteOff (ctx : Nat) (t : U64) (ch : U4) (note velocity : U7)
  | m1NoteOn (ctx : Nat) (t : U64) (ch : U4) (note velocity : U7)
  | m1NotePressure (ctx : Nat) (t : U64) (ch : U4) (note amount : U7)
  | m1Cc (ctx : Nat) (t : U64) (ch : U4) (controller value : U7)
  | m1ProgramChange (ctx : Nat) (t : U64) (ch : U4) (program : U7)
  | m1Pressure (ctx : Nat) (t : U64) (ch : U4) (amount : U7)
  | m1PitchBend (ctx : Nat) (t : U64) (ch : U4) (lsb msb : U7)
  -- MIDI 1.0 System bytes (R95)
  | m1SysExStart (ctx : Nat) (t : U64) (body : List U7)
  | m1TimecodeQuarterFrame (ctx : Nat) (t : U64) (dataByte : U7)
  | m1SongPositionPointer (ctx : Nat) (t : U64) (lsb msb : U7)
  | m1SongSelect (ctx : Nat) (t : U64) (number : U7)
  | m1ReservedF4 (ctx : Nat) (t : U64)
  | m1ReservedF5 (ctx : Nat) (t : U64)
  | m1TuneRequest (ctx : Nat) (t : U64)
  | m1Eox (ctx : Nat) (t : U64)
  | m1TimingClock (ctx : Nat) (t : U64)
  | m1ReservedF9 (ctx : Nat) (t : U64)
  | m1Start (ctx : Nat) (t : U64)
  | m1Continue (ctx : Nat) (t : U64)
  | m1Stop (ctx : Nat) (t : U64)
  | m1ReservedFD (ctx : Nat) (t : U64)
  | m1ActiveSensing (ctx : Nat) (t : U64)
  | m1SystemReset (ctx : Nat) (t : U64)
  | m1DataByte (ctx : Nat) (t : U64) (value : U7)
  -- UMP MT 0x0 utility (R101)
  | umpNoOp (g : U4)
  | umpJrClock (g : U4) (time : U16)
  | umpJrTimestamp (g : U4) (time : U16)
  -- UMP MT 0x1 system common and real-time (R102); data positions are whole bytes, checked by R108
  | umpMt1TimecodeQuarterFrame (g : U4) (d1 : Byte)
  | umpMt1SongPositionPointer (g : U4) (d1 d2 : Byte)
  | umpMt1SongSelect (g : U4) (d1 : Byte)
  | umpMt1TuneRequest (g : U4)
  | umpMt1TimingClock (g : U4)
  | umpMt1Start (g : U4)
  | umpMt1Continue (g : U4)
  | umpMt1Stop (g : U4)
  | umpMt1ActiveSensing (g : U4)
  | umpMt1SystemReset (g : U4)
  -- UMP MT 0x2 MIDI 1.0 channel voice (R103)
  | umpMt2NoteOff (g ch : U4) (d1 d2 : Byte)
  | umpMt2NoteOn (g ch : U4) (d1 d2 : Byte)
  | umpMt2NotePressure (g ch : U4) (d1 d2 : Byte)
  | umpMt2Cc (g ch : U4) (d1 d2 : Byte)
  | umpMt2ProgramChange (g ch : U4) (d1 : Byte)
  | umpMt2Pressure (g ch : U4) (d1 : Byte)
  | umpMt2PitchBend (g ch : U4) (d1 d2 : Byte)
  -- UMP MT 0x3 sysEx7 (R104): the first packet's fields, then the words of the message's later packets (R447)
  | umpSysEx7Complete (g n : U4) (b0 b1 : Byte) (w1 : Word) (rest : List Word)
  | umpSysEx7Start (g n : U4) (b0 b1 : Byte) (w1 : Word) (rest : List Word)
  | umpSysEx7Continue (g n : U4) (b0 b1 : Byte) (w1 : Word) (rest : List Word)
  | umpSysEx7End (g n : U4) (b0 b1 : Byte) (w1 : Word) (rest : List Word)
  -- UMP MT 0x4 MIDI 2.0 channel voice (R105)
  | umpMt4NoteCCRegistered (g ch : U4) (note index : Byte) (value : Word)
  | umpMt4NoteCCAssignable (g ch : U4) (note index : Byte) (value : Word)
  | umpMt4RegisteredController (g ch : U4)
  | umpMt4AssignableController (g ch : U4)
  | umpMt4RelativeRegisteredController (g ch : U4)
  | umpMt4RelativeAssignableController (g ch : U4)
  | umpMt4NotePitchBend (g ch : U4) (note : Byte) (value : Word)
  | umpMt4ReservedOp7 (g ch : U4)
  | umpMt4NoteOff (g ch : U4) (note attrType : Byte) (velocity attrData : U16)
  | umpMt4NoteOn (g ch : U4) (note attrType : Byte) (velocity attrData : U16)
  | umpMt4NotePressure (g ch : U4) (note : Byte) (amount : Word)
  | umpMt4Cc (g ch : U4) (controller : Byte) (value : Word)
  | umpMt4ProgramChange (g ch : U4) (bankValid : Bool) (program bankMsb bankLsb : Byte)
  | umpMt4Pressure (g ch : U4) (amount : Word)
  | umpMt4PitchBend (g ch : U4) (value : Word)
  | umpMt4PerNoteManagement (g ch : U4)
  -- UMP MT 0x5 sysEx8 and mixed data (R106)
  | umpSysEx8Complete (g n : U4) (sid b0 : Byte) (w1 w2 w3 : Word) (rest : List Word)
  | umpSysEx8Start (g n : U4) (sid b0 : Byte) (w1 w2 w3 : Word) (rest : List Word)
  | umpSysEx8Continue (g n : U4) (sid b0 : Byte) (w1 w2 w3 : Word) (rest : List Word)
  | umpSysEx8End (g n : U4) (sid b0 : Byte) (w1 w2 w3 : Word) (rest : List Word)
  | umpMixedDataHeader (g : U4)
  | umpMixedDataPayload (g : U4)
  -- UMP reserved message types (R100, R269)
  | umpReservedMT6 (g : U4)
  | umpReservedMT7 (g : U4)
  | umpReservedMT8 (g : U4)
  | umpReservedMT9 (g : U4)
  | umpReservedMTA (g : U4)
  | umpReservedMTB (g : U4)
  | umpReservedMTC (g : U4)
  | umpReservedMTD (g : U4)
  | umpReservedMTE (g : U4)
  | umpReservedMTF (g : U4)
  deriving DecidableEq, Repr

/-- One transaction as it stands at the block's port, not yet decoded. `command` is a record of R90, the `op` code and
then its operands written one value after another as numbers (log entry 4), so that an operand outside
its type can be presented and refused (R406). `midi1` is a run of bytes arriving on the connection bound
to context `ctx`; `ump` is one incoming UMP message (R454). -/
inductive Frame where
  | command (cells : List Nat)
  | midi1 (ctx : Nat) (t : U64) (bytes : List Byte)
  | ump (words : List Word)
  deriving DecidableEq, Repr

end Sys2Proof
end

