-- ==== Sys2Proof/WellFormed.lean ====
section
/-! DEFINITION. The operand domain of each operation (spec 30_encoding.md R90, 60_exceptions.md R406): a width in the
operation's set, a context index below `N_CTX`, a value that fits its stated type. An operation that fails
these checks is refused, with no effect. Field widths are in the types of `Instr`; a value outside one is
stopped by the decoder. -/

namespace Sys2Proof

/-- The widths of MAKE_UINT (R140). -/
def uintWidths : List Nat := [4, 7, 8, 14, 16, 25, 32]
/-- The widths of SCALE and of the bipolar and unipolar maps (R141, R150, R151, R153, R154). -/
def scaleWidths : List Nat := [7, 14, 16, 32]
/-- The widths of SYSEX_ID (R290). -/
def sysexWidths : List Nat := [7, 8]

/-- `v : U_N` (R23). -/
def fitsWidth (v N : Nat) : Bool := decide (v ≤ 2 ^ N - 1)

/-- R31: `mfr1(b)` is a value only with `reg1(b)` true, and `mfr3(b1, b2)` only with `reg3(b1, b2)` true (log entry 6,
DEDUCED, unsafe). -/
def SysExID.wf (r : Registry) : SysExID → Bool
  | .mfr1 b => r.reg1 b
  | .mfr3 b1 b2 => r.reg3 b1 b2
  | .universal _ => true

/-- A value of type `Event` (R32 to R37): every field fits its type. -/
def Event.wf (r : Registry) : Event → Bool
  | .sysEx7 id _ _ => id.wf r
  | .sysEx8 id _ _ _ => id.wf r
  | _ => true

/-- The operands lie in the domain of R90 on a block with registry `r` and `nCtx` contexts; false is R406's
`Refused`. Every UMP row is in the domain: DEC_UMP takes any word list (R75). -/
def Instr.wf (r : Registry) (nCtx : Nat) : Instr → Bool
  | .reset c => decide (c < nCtx)
  | .feed c _ _ => decide (c < nCtx)
  | .encM1 e => e.wf r
  | .encUmp e _ => e.wf r
  | .makeUint N _ => uintWidths.contains N
  | .scale v N M => scaleWidths.contains N && scaleWidths.contains M && fitsWidth v N
  | .toBipolar v N => scaleWidths.contains N && fitsWidth v N
  | .fromBipolar _ N => scaleWidths.contains N
  | .toUnipolar v N => scaleWidths.contains N && fitsWidth v N
  | .fromUnipolar _ N => scaleWidths.contains N
  | .sysexId _ width => sysexWidths.contains width
  | .classify e => e.wf r
  | .filter _ es => es.all (Event.wf r)
  | .m1NoteOff c _ _ _ _ => decide (c < nCtx)
  | .m1NoteOn c _ _ _ _ => decide (c < nCtx)
  | .m1NotePressure c _ _ _ _ => decide (c < nCtx)
  | .m1Cc c _ _ _ _ => decide (c < nCtx)
  | .m1ProgramChange c _ _ _ => decide (c < nCtx)
  | .m1Pressure c _ _ _ => decide (c < nCtx)
  | .m1PitchBend c _ _ _ _ => decide (c < nCtx)
  | .m1SysExStart c _ _ => decide (c < nCtx)
  | .m1TimecodeQuarterFrame c _ _ => decide (c < nCtx)
  | .m1SongPositionPointer c _ _ _ => decide (c < nCtx)
  | .m1SongSelect c _ _ => decide (c < nCtx)
  | .m1ReservedF4 c _ => decide (c < nCtx)
  | .m1ReservedF5 c _ => decide (c < nCtx)
  | .m1TuneRequest c _ => decide (c < nCtx)
  | .m1Eox c _ => decide (c < nCtx)
  | .m1TimingClock c _ => decide (c < nCtx)
  | .m1ReservedF9 c _ => decide (c < nCtx)
  | .m1Start c _ => decide (c < nCtx)
  | .m1Continue c _ => decide (c < nCtx)
  | .m1Stop c _ => decide (c < nCtx)
  | .m1ReservedFD c _ => decide (c < nCtx)
  | .m1ActiveSensing c _ => decide (c < nCtx)
  | .m1SystemReset c _ => decide (c < nCtx)
  | .m1DataByte c _ _ => decide (c < nCtx)
  | _ => true

end Sys2Proof
end

