-- ==== Sys2Proof/Decode.lean ====
section
/-! DEFINITION. From what stands at the port to an `Instr`, and back (spec 30_encoding.md). First the bit fields of a
UMP word and the byte classes of MIDI 1.0, then the operand reader of a command record, then one decoder
per format, then the encoder written from the same tables, and last what the host asks with a table word. -/

namespace Sys2Proof

/-! ### Fields of a UMP word (R72, R99) -/

/-- `w[31:28]`, the message type. -/
def mtOf (w : Word) : U4 := w.extractLsb' 28 4
/-- `w[27:24]`, the group. -/
def grpOf (w : Word) : U4 := w.extractLsb' 24 4
/-- `w[23:20]`, the status or opcode. -/
def stOf (w : Word) : U4 := w.extractLsb' 20 4
/-- `w[19:16]`, the channel or byte count. -/
def chOf (w : Word) : U4 := w.extractLsb' 16 4
/-- `w[31:24]`, byte 0 of the word (R72: most significant byte first). -/
def byte0 (w : Word) : Byte := w.extractLsb' 24 8
/-- `w[23:16]`, byte 1. -/
def byte1 (w : Word) : Byte := w.extractLsb' 16 8
/-- `w[15:8]`, byte 2. -/
def byte2 (w : Word) : Byte := w.extractLsb' 8 8
/-- `w[7:0]`, byte 3. -/
def byte3 (w : Word) : Byte := w.extractLsb' 0 8
/-- `w[31:16]`. -/
def hi16 (w : Word) : U16 := w.extractLsb' 16 16
/-- `w[15:0]`. -/
def lo16 (w : Word) : U16 := w.extractLsb' 0 16

/-- Word 0 from its fields: `hdr(mt, g) | (st << 20) | (ch << 16) | (a << 8) | b` (R99, R155: disjoint fields). -/
def packWord (mt g st ch : U4) (a b : Byte) : Word := mt ++ g ++ st ++ ch ++ a ++ b
/-- Word 0 whose `w[23:16]` is one byte `s`: `hdr(mt, g) | (s << 16) | (a << 8) | b` (R102, R103). -/
def packStatus (mt g : U4) (s a b : Byte) : Word := mt ++ g ++ s ++ a ++ b
/-- Word 0 with a 16-bit field in `w[15:0]` (R101). -/
def packLo16 (mt g st ch : U4) (v : U16) : Word := mt ++ g ++ st ++ ch ++ v
/-- A word from its four bytes, most significant first (R72). -/
def packBytes (a b c d : Byte) : Word := a ++ b ++ c ++ d
/-- A word from two halves. -/
def packHalves (h l : U16) : Word := h ++ l

/-- The words of one packet by message type (R100). -/
def wordsOf (mt : U4) : Nat :=
  match mt.toNat with
  | 0x0 | 0x1 | 0x2 | 0x6 | 0x7 => 1
  | 0x3 | 0x4 | 0x8 | 0x9 | 0xA => 2
  | 0xB | 0xC => 3
  | _ => 4

/-! ### Bytes of MIDI 1.0 (R93 to R96, R109) -/

/-- A byte with bit 7 set is a status byte (R93). -/
def isStatus (b : Byte) : Bool := decide (0x80 ≤ b.toNat)

/-- `b[7:4]` of a status byte, as a number (R94). -/
def nibble (b : Byte) : Nat := b.toNat / 16

/-- `b[3:0]` of a status byte: the channel (R94). -/
def channel (b : Byte) : U4 := b.setWidth 4

/-- A channel voice status byte, `(nibble << 4) | ch` (R94). -/
def chanStatus (nib ch : U4) : Byte := nib ++ ch

/-- `need(s)`, the number of data bytes a status byte takes (R96); `none` where R96 does not define it (log entry 9). -/
def need (s : Byte) : Option Nat :=
  match nibble s with
  | 0x8 | 0x9 | 0xA | 0xB | 0xE => some 2
  | 0xC | 0xD => some 1
  | 0xF =>
    match s.toNat with
    | 0xF1 | 0xF3 => some 1
    | 0xF2 => some 2
    | 0xF6 | 0xF8 | 0xF9 | 0xFA | 0xFB | 0xFC | 0xFD | 0xFE | 0xFF => some 0
    | _ => none
  | _ => none

/-- R96's `need` of an optional status, as R42 writes it (`need(pend)`): `need(None) = 0`. -/
def needOf : Option Byte → Option Nat
  | some s => need s
  | none => some 0

/-- The bytes as data bytes, if none of them is a status byte (R93). -/
def asData (bs : List Byte) : Option (List U7) :=
  if bs.any isStatus then none else some (bs.map Byte.low7)

/-- R109: `(msb << 7) | lsb`. -/
def join14 (lsb msb : U7) : U14 := msb ++ lsb
/-- R109's inverse, `v[6:0]`. -/
def lsb7 (v : U14) : U7 := v.extractLsb' 0 7
/-- R109's inverse, `v[13:7]`. -/
def msb7 (v : U14) : U7 := v.extractLsb' 7 7

/-! ### Rejections -/

/-- Why a frame is no instruction of the table. A rejected command is `Refused`: R406 says so of an operand outside its
type; that an unknown operation code, a record that ends early and one that goes on are `Refused` too is the
model's choice (log entry 17, DESIGN CHOICE, unsafe). A rejected run of bytes or words still goes to FEED or
DEC_UMP, which take any (R75). -/
inductive DecodeError where
  /-- Nothing stands in the frame. -/
  | emptyFrame
  /-- No operation of R90 has this code. -/
  | unknownOp (op : Nat)
  /-- The record ends before its last operand. -/
  | missingOperand
  /-- An operand value does not fit its stated type (R406). -/
  | operandOutOfType (value : Nat)
  /-- Values follow the last operand. -/
  | extraOperand
  /-- The bytes are not exactly one message of the status map of R95. -/
  | notOneMessage
  /-- The word is of no row of the table: an undefined status of R269. -/
  | noRow
  /-- The number of words is not that of one message (R100). -/
  | wordCount
  deriving DecidableEq, Repr

/-! ### The operand reader of a command record (log entry 4) -/

/-- Reads values off the front of a record. -/
abbrev Reader := StateT (List Nat) (Except DecodeError)

/-- The next value of the record. -/
def readCell : Reader Nat := fun cs =>
  match cs with
  | [] => .error .missingOperand
  | c :: rest => .ok (c, rest)

/-- Rejects a value that does not fit its stated type (R406). -/
def outOfType {α : Type} (c : Nat) : Reader α := fun _ => .error (.operandOutOfType c)

/-- A `U_n`. -/
def readBits (n : Nat) : Reader (BitVec n) := do
  let c ← readCell
  if c < 2 ^ n then pure (BitVec.ofNat n c) else outOfType c

/-- A Bool: 0 or 1. -/
def readBool : Reader Bool := do
  match ← readCell with
  | 0 => pure false
  | 1 => pure true
  | c => outOfType c

/-- `n` values, each read by `r`. -/
def readMany {α : Type} (r : Reader α) : Nat → Reader (List α)
  | 0 => pure []
  | n + 1 => do
    let a ← r
    let as ← readMany r n
    pure (a :: as)

/-- A list: its length, then its elements. -/
def readList {α : Type} (r : Reader α) : Reader (List α) := do
  let n ← readCell
  readMany r n

/-- A rational: its sign (1 is negative), the size of its numerator, its denominator less 1. -/
def readRat : Reader Rat := do
  let neg ← readBool
  let n ← readCell
  let d ← readCell
  pure (mkRat (if neg then -(n : Int) else n) (d + 1))

/-- A dual-resolution value: 0 and a `U_L`, or 1 and a `U_H`. -/
def readDual (L H : Nat) : Reader (Dual L H) := do
  if ← readBool then
    let u ← readBits H
    pure (.m2 u)
  else
    let v ← readBits L
    pure (.m1 v)

def readAttr : Reader Attr := do
  let a ← readBits 8
  let d ← readBits 16
  pure ⟨a, d⟩

/-- A bank: 0 for `None`, or 1, the msb and the lsb. -/
def readBank : Reader (Option (U7 × U7)) := do
  if ← readBool then
    let m ← readBits 7
    let l ← readBits 7
    pure (some (m, l))
  else pure none

/-- A per-note controller: 0 for registered or 1 for assignable, then the index. -/
def readPNC : Reader PNC := do
  let assignable ← readBool
  let i ← readBits 8
  pure (if assignable then .assignable i else .registered i)

/-- A SysEx identifier: 0, 1 or 2 in the order of R31, then its fields. -/
def readSysExID : Reader SysExID := do
  match ← readCell with
  | 0 => do
    let b ← readBits 7
    pure (.mfr1 b)
  | 1 => do
    let b1 ← readBits 7
    let b2 ← readBits 7
    pure (.mfr3 b1 b2)
  | 2 => do
    let rt ← readBool
    pure (.universal rt)
  | c => outOfType c

/-- Reads a channel and then a group into an event. -/
def readChG (f : U4 → U4 → Event) : Reader Event := do
  let ch ← readBits 4
  let g ← readBits 4
  pure (f ch g)

/-- Reads a group into an event. -/
def readG (f : U4 → Event) : Reader Event := do
  let g ← readBits 4
  pure (f g)

/-- An event: the place of its variant in the order of R33 to R37, then its fields in the order of `Event`. -/
def readEvent : Reader Event := do
  match ← readCell with
  | 0 => do
    let n ← readBits 7
    let v ← readDual 7 16
    let a ← readAttr
    readChG (.noteOn n v a)
  | 1 => do
    let n ← readBits 7
    let v ← readDual 7 16
    let a ← readAttr
    readChG (.noteOff n v a)
  | 2 => do
    let n ← readBits 7
    let v ← readDual 7 32
    readChG (.notePressure n v)
  | 3 => do
    let c ← readBits 7
    let v ← readDual 7 32
    readChG (.cc c v)
  | 4 => do
    let p ← readBits 7
    let b ← readBank
    readChG (.programChange p b)
  | 5 => do
    let v ← readDual 7 32
    readChG (.pressure v)
  | 6 => do
    let v ← readDual 14 32
    readChG (.pitchBend v)
  | 7 => do
    let n ← readBits 7
    let v ← readBits 32
    readChG (.notePitchBend n v)
  | 8 => do
    let n ← readBits 7
    let c ← readPNC
    let v ← readBits 32
    readChG (.noteCC n c v)
  | 9 => do
    let d ← readBits 7
    readG (.timecodeQuarterFrame d)
  | 10 => do
    let b ← readBits 14
    readG (.songPositionPointer b)
  | 11 => do
    let n ← readBits 7
    readG (.songSelect n)
  | 12 => readG .tuneRequest
  | 13 => readG .timingClock
  | 14 => readG .start
  | 15 => readG .stop
  | 16 => readG .continue_
  | 17 => readG .activeSensing
  | 18 => readG .systemReset
  | 19 => do
    let id ← readSysExID
    let data ← readList (readBits 7)
    readG (.sysEx7 id data)
  | 20 => do
    let id ← readSysExID
    let data ← readList (readBits 8)
    let sid ← readBits 8
    readG (.sysEx8 id data sid)
  | 21 => readG .noOp
  | 22 => do
    let t ← readBits 16
    readG (.jrClock t)
  | 23 => do
    let t ← readBits 16
    readG (.jrTimestamp t)
  | c => outOfType c

/-- The categories in the order of R371. -/
def categories : List Category := [.chanVoice, .systemCommon, .systemRealTime, .sysEx, .utility]

/-- The types in the order of R371. -/
def evTypes : List EvType :=
  [.noteOn, .noteOff, .notePressure, .cc, .programChange, .pressure, .pitchBend, .notePitchBend, .noteCC,
   .timecodeQuarterFrame, .songPositionPointer, .songSelect, .tuneRequest,
   .timingClock, .start, .stop, .continue_, .activeSensing, .systemReset,
   .sysEx7, .universalSysEx7, .sysEx8, .universalSysEx8,
   .noOp, .jrClock, .jrTimestamp]

/-- A member of a fixed list, by its place. -/
def readOneOf {α : Type} (l : List α) : Reader α := do
  let c ← readCell
  match l[c]? with
  | some a => pure a
  | none => outOfType c

/-- A filter: its category, its operation in the order of R372, and the operation's type set. -/
def readFilter : Reader Filter := do
  let C ← readOneOf categories
  match ← readCell with
  | 0 => pure ⟨C, .only⟩
  | 1 => do
    let T ← readList (readOneOf evTypes)
    pure ⟨C, .onlyTypes T⟩
  | 2 => do
    let T ← readList (readOneOf evTypes)
    pure ⟨C, .keepTypes T⟩
  | 3 => pure ⟨C, .drop⟩
  | 4 => do
    let T ← readList (readOneOf evTypes)
    pure ⟨C, .dropTypes T⟩
  | c => outOfType c

def readProtocol : Reader Protocol := do
  pure (if ← readBool then .M2 else .M1)

/-- The operands of the operation with code `op`, in the order of R90's table. -/
def readOperands (op : Nat) : Reader Instr :=
  match op with
  | 0x01 => do
    let c ← readCell
    pure (.reset c)
  | 0x02 => do
    let c ← readCell
    let t ← readBits 64
    let bs ← readList (readBits 8)
    pure (.feed c t bs)
  | 0x10 => do
    let e ← readEvent
    pure (.encM1 e)
  | 0x11 => do
    let e ← readEvent
    let P ← readProtocol
    pure (.encUmp e P)
  | 0x12 => do
    let bs ← readList (readBits 8)
    let g ← readBits 4
    pure (.decM1 bs g)
  | 0x13 => do
    let ws ← readList (readBits 32)
    pure (.decUmp ws)
  | 0x20 => do
    let N ← readCell
    let v ← readCell
    pure (.makeUint N v)
  | 0x21 => do
    let v ← readCell
    let N ← readCell
    let M ← readCell
    pure (.scale v N M)
  | 0x22 => do
    let v ← readCell
    let N ← readCell
    pure (.toBipolar v N)
  | 0x23 => do
    let x ← readRat
    let N ← readCell
    pure (.fromBipolar x N)
  | 0x24 => do
    let v ← readCell
    let N ← readCell
    pure (.toUnipolar v N)
  | 0x25 => do
    let x ← readRat
    let N ← readCell
    pure (.fromUnipolar x N)
  | 0x30 => do
    let bs ← readList (readBits 8)
    let w ← readCell
    pure (.sysexId bs w)
  | 0x31 => do
    let e ← readEvent
    pure (.classify e)
  | 0x32 => do
    let f ← readFilter
    let es ← readList readEvent
    pure (.filter f es)
  | _ => fun _ => .error (.unknownOp op)

/-- A command record from its front: the operation and the values after it (R90). -/
def readCommand (cells : List Nat) : Except DecodeError (Instr × List Nat) :=
  match cells with
  | [] => .error .emptyFrame
  | op :: operands => readOperands op operands

/-! ### The three decoders -/

/-- A command record is an operation and exactly its operands (R90). -/
def decodeCommand (cells : List Nat) : Except DecodeError Instr :=
  match readCommand cells with
  | .ok (i, []) => .ok i
  | .ok (_, _ :: _) => .error .extraOperand
  | .error r => .error r

/-- A row without data bytes. -/
def noData (d : List U7) (i : Instr) : Except DecodeError Instr :=
  match d with
  | [] => .ok i
  | _ => .error .notOneMessage

/-- A row with one data byte. -/
def oneData (d : List U7) (f : U7 → Instr) : Except DecodeError Instr :=
  match d with
  | [a] => .ok (f a)
  | _ => .error .notOneMessage

/-- A row with two data bytes. -/
def twoData (d : List U7) (f : U7 → U7 → Instr) : Except DecodeError Instr :=
  match d with
  | [a, b] => .ok (f a b)
  | _ => .error .notOneMessage

/-- The row of a channel voice message, by the nibble of its status byte (R94, R95). -/
def decodeM1Voice (c : Nat) (t : U64) (nib : Nat) (ch : U4) (d : List U7) : Except DecodeError Instr :=
  match nib with
  | 0x8 => twoData d (.m1NoteOff c t ch)
  | 0x9 => twoData d (.m1NoteOn c t ch)
  | 0xA => twoData d (.m1NotePressure c t ch)
  | 0xB => twoData d (.m1Cc c t ch)
  | 0xC => oneData d (.m1ProgramChange c t ch)
  | 0xD => oneData d (.m1Pressure c t ch)
  | 0xE => twoData d (.m1PitchBend c t ch)
  | _ => .error .notOneMessage

/-- The row of a System message, by the low nibble of its status byte (R95). -/
def decodeM1System (c : Nat) (t : U64) (low : Nat) (d : List U7) : Except DecodeError Instr :=
  match low with
  | 0x0 => .ok (.m1SysExStart c t d)
  | 0x1 => oneData d (.m1TimecodeQuarterFrame c t)
  | 0x2 => twoData d (.m1SongPositionPointer c t)
  | 0x3 => oneData d (.m1SongSelect c t)
  | 0x4 => noData d (.m1ReservedF4 c t)
  | 0x5 => noData d (.m1ReservedF5 c t)
  | 0x6 => noData d (.m1TuneRequest c t)
  | 0x7 => noData d (.m1Eox c t)
  | 0x8 => noData d (.m1TimingClock c t)
  | 0x9 => noData d (.m1ReservedF9 c t)
  | 0xA => noData d (.m1Start c t)
  | 0xB => noData d (.m1Continue c t)
  | 0xC => noData d (.m1Stop c t)
  | 0xD => noData d (.m1ReservedFD c t)
  | 0xE => noData d (.m1ActiveSensing c t)
  | _ => noData d (.m1SystemReset c t)

/-- The row of a status byte with its data bytes (R95). -/
def decodeM1Status (c : Nat) (t : U64) (s : Byte) (d : List U7) : Except DecodeError Instr :=
  if nibble s = 0xF then decodeM1System c t (channel s).toNat d else decodeM1Voice c t (nibble s) (channel s) d

/-- One MIDI 1.0 message with its status byte, or one data byte (R95, R97). A SysEx start takes the data bytes that
follow it; `F7` and interleaved bytes are messages of their own. -/
def decodeMidi1 (c : Nat) (t : U64) (bytes : List Byte) : Except DecodeError Instr :=
  match bytes with
  | [] => .error .emptyFrame
  | s :: rest =>
    if isStatus s then
      match asData rest with
      | some d => decodeM1Status c t s d
      | none => .error .notOneMessage
    else
      match rest with
      | [] => .ok (.m1DataByte c t s.low7)
      | _ :: _ => .error .notOneMessage

/-- MT 0x0 (R101). -/
def decodeMt0 (w0 : Word) : Except DecodeError Instr :=
  let g := grpOf w0
  match (stOf w0).toNat with
  | 0x0 => .ok (.umpNoOp g)
  | 0x1 => .ok (.umpJrClock g (lo16 w0))
  | 0x2 => .ok (.umpJrTimestamp g (lo16 w0))
  | _ => .error .noRow

/-- MT 0x1 (R102). -/
def decodeMt1 (w0 : Word) : Except DecodeError Instr :=
  let g := grpOf w0
  match (byte1 w0).toNat with
  | 0xF1 => .ok (.umpMt1TimecodeQuarterFrame g (byte2 w0))
  | 0xF2 => .ok (.umpMt1SongPositionPointer g (byte2 w0) (byte3 w0))
  | 0xF3 => .ok (.umpMt1SongSelect g (byte2 w0))
  | 0xF6 => .ok (.umpMt1TuneRequest g)
  | 0xF8 => .ok (.umpMt1TimingClock g)
  | 0xFA => .ok (.umpMt1Start g)
  | 0xFB => .ok (.umpMt1Continue g)
  | 0xFC => .ok (.umpMt1Stop g)
  | 0xFE => .ok (.umpMt1ActiveSensing g)
  | 0xFF => .ok (.umpMt1SystemReset g)
  | _ => .error .noRow

/-- MT 0x2 (R103). -/
def decodeMt2 (w0 : Word) : Except DecodeError Instr :=
  let g := grpOf w0
  let ch := chOf w0
  match (stOf w0).toNat with
  | 0x8 => .ok (.umpMt2NoteOff g ch (byte2 w0) (byte3 w0))
  | 0x9 => .ok (.umpMt2NoteOn g ch (byte2 w0) (byte3 w0))
  | 0xA => .ok (.umpMt2NotePressure g ch (byte2 w0) (byte3 w0))
  | 0xB => .ok (.umpMt2Cc g ch (byte2 w0) (byte3 w0))
  | 0xC => .ok (.umpMt2ProgramChange g ch (byte2 w0))
  | 0xD => .ok (.umpMt2Pressure g ch (byte2 w0))
  | 0xE => .ok (.umpMt2PitchBend g ch (byte2 w0) (byte3 w0))
  | _ => .error .noRow

/-- MT 0x3 (R104): the row is that of the first packet's status. -/
def decodeMt3 (w0 w1 : Word) (rest : List Word) : Except DecodeError Instr :=
  let g := grpOf w0
  let n := chOf w0
  match (stOf w0).toNat with
  | 0x0 => .ok (.umpSysEx7Complete g n (byte2 w0) (byte3 w0) w1 rest)
  | 0x1 => .ok (.umpSysEx7Start g n (byte2 w0) (byte3 w0) w1 rest)
  | 0x2 => .ok (.umpSysEx7Continue g n (byte2 w0) (byte3 w0) w1 rest)
  | 0x3 => .ok (.umpSysEx7End g n (byte2 w0) (byte3 w0) w1 rest)
  | _ => .error .noRow

/-- MT 0x4 (R105). -/
def decodeMt4 (w0 w1 : Word) : Except DecodeError Instr :=
  let g := grpOf w0
  let ch := chOf w0
  let a := byte2 w0
  let b := byte3 w0
  match (stOf w0).toNat with
  | 0x0 => .ok (.umpMt4NoteCCRegistered g ch a b w1)
  | 0x1 => .ok (.umpMt4NoteCCAssignable g ch a b w1)
  | 0x2 => .ok (.umpMt4RegisteredController g ch)
  | 0x3 => .ok (.umpMt4AssignableController g ch)
  | 0x4 => .ok (.umpMt4RelativeRegisteredController g ch)
  | 0x5 => .ok (.umpMt4RelativeAssignableController g ch)
  | 0x6 => .ok (.umpMt4NotePitchBend g ch a w1)
  | 0x7 => .ok (.umpMt4ReservedOp7 g ch)
  | 0x8 => .ok (.umpMt4NoteOff g ch a b (hi16 w1) (lo16 w1))
  | 0x9 => .ok (.umpMt4NoteOn g ch a b (hi16 w1) (lo16 w1))
  | 0xA => .ok (.umpMt4NotePressure g ch a w1)
  | 0xB => .ok (.umpMt4Cc g ch a w1)
  | 0xC => .ok (.umpMt4ProgramChange g ch (b.getLsbD 0) (byte0 w1) (byte2 w1) (byte3 w1))
  | 0xD => .ok (.umpMt4Pressure g ch w1)
  | 0xE => .ok (.umpMt4PitchBend g ch w1)
  | _ => .ok (.umpMt4PerNoteManagement g ch)

/-- MT 0x5 (R106): the row is that of the first packet's status. -/
def decodeMt5 (w0 w1 w2 w3 : Word) (rest : List Word) : Except DecodeError Instr :=
  let g := grpOf w0
  let n := chOf w0
  match (stOf w0).toNat, rest with
  | 0x0, _ => .ok (.umpSysEx8Complete g n (byte2 w0) (byte3 w0) w1 w2 w3 rest)
  | 0x1, _ => .ok (.umpSysEx8Start g n (byte2 w0) (byte3 w0) w1 w2 w3 rest)
  | 0x2, _ => .ok (.umpSysEx8Continue g n (byte2 w0) (byte3 w0) w1 w2 w3 rest)
  | 0x3, _ => .ok (.umpSysEx8End g n (byte2 w0) (byte3 w0) w1 w2 w3 rest)
  | 0x8, [] => .ok (.umpMixedDataHeader g)
  | 0x9, [] => .ok (.umpMixedDataPayload g)
  | 0x8, _ :: _ => .error .wordCount
  | 0x9, _ :: _ => .error .wordCount
  | _, _ => .error .noRow

/-- One UMP message, named by its first packet (R99, R100). A reserved message type is known from word 0 alone
(R250 tests it before the length). -/
def decodeUmp (words : List Word) : Except DecodeError Instr :=
  match words with
  | [] => .error .emptyFrame
  | w0 :: ws =>
    let g := grpOf w0
    match (mtOf w0).toNat, ws with
    | 0x0, [] => decodeMt0 w0
    | 0x1, [] => decodeMt1 w0
    | 0x2, [] => decodeMt2 w0
    | 0x3, w1 :: rest => decodeMt3 w0 w1 rest
    | 0x4, [w1] => decodeMt4 w0 w1
    | 0x5, w1 :: w2 :: w3 :: rest => decodeMt5 w0 w1 w2 w3 rest
    | 0x6, _ => .ok (.umpReservedMT6 g)
    | 0x7, _ => .ok (.umpReservedMT7 g)
    | 0x8, _ => .ok (.umpReservedMT8 g)
    | 0x9, _ => .ok (.umpReservedMT9 g)
    | 0xA, _ => .ok (.umpReservedMTA g)
    | 0xB, _ => .ok (.umpReservedMTB g)
    | 0xC, _ => .ok (.umpReservedMTC g)
    | 0xD, _ => .ok (.umpReservedMTD g)
    | 0xE, _ => .ok (.umpReservedMTE g)
    | 0xF, _ => .ok (.umpReservedMTF g)
    | _, _ => .error .wordCount

/-- The instruction that a frame holds, or why it holds none. -/
def decode : Frame → Except DecodeError Instr
  | .command cells => decodeCommand cells
  | .midi1 c t bytes => decodeMidi1 c t bytes
  | .ump words => decodeUmp words

/-! ### The encoder -/

def writeBool (b : Bool) : Nat := if b then 1 else 0

def writeList {α : Type} (w : α → List Nat) (l : List α) : List Nat := l.length :: l.flatMap w

def writeBits {n : Nat} (v : BitVec n) : List Nat := [v.toNat]

def writeRat (x : Rat) : List Nat := [writeBool (decide (x.num < 0)), x.num.natAbs, x.den - 1]

def writeDual {L H : Nat} : Dual L H → List Nat
  | .m1 v => [0, v.toNat]
  | .m2 u => [1, u.toNat]

def writeAttr (a : Attr) : List Nat := [a.atype.toNat, a.adata.toNat]

def writeBank : Option (U7 × U7) → List Nat
  | none => [0]
  | some (m, l) => [1, m.toNat, l.toNat]

def writePNC : PNC → List Nat
  | .registered i => [0, i.toNat]
  | .assignable i => [1, i.toNat]

def writeSysExID : SysExID → List Nat
  | .mfr1 b => [0, b.toNat]
  | .mfr3 b1 b2 => [1, b1.toNat, b2.toNat]
  | .universal rt => [2, writeBool rt]

def writeChG (ch g : U4) : List Nat := [ch.toNat, g.toNat]

def writeEvent : Event → List Nat
  | .noteOn n v a ch g => 0 :: n.toNat :: (writeDual v ++ writeAttr a ++ writeChG ch g)
  | .noteOff n v a ch g => 1 :: n.toNat :: (writeDual v ++ writeAttr a ++ writeChG ch g)
  | .notePressure n v ch g => 2 :: n.toNat :: (writeDual v ++ writeChG ch g)
  | .cc c v ch g => 3 :: c.toNat :: (writeDual v ++ writeChG ch g)
  | .programChange p b ch g => 4 :: p.toNat :: (writeBank b ++ writeChG ch g)
  | .pressure v ch g => 5 :: (writeDual v ++ writeChG ch g)
  | .pitchBend v ch g => 6 :: (writeDual v ++ writeChG ch g)
  | .notePitchBend n v ch g => 7 :: n.toNat :: v.toNat :: writeChG ch g
  | .noteCC n c v ch g => 8 :: n.toNat :: (writePNC c ++ (v.toNat :: writeChG ch g))
  | .timecodeQuarterFrame d g => [9, d.toNat, g.toNat]
  | .songPositionPointer b g => [10, b.toNat, g.toNat]
  | .songSelect n g => [11, n.toNat, g.toNat]
  | .tuneRequest g => [12, g.toNat]
  | .timingClock g => [13, g.toNat]
  | .start g => [14, g.toNat]
  | .stop g => [15, g.toNat]
  | .continue_ g => [16, g.toNat]
  | .activeSensing g => [17, g.toNat]
  | .systemReset g => [18, g.toNat]
  | .sysEx7 id data g => 19 :: (writeSysExID id ++ writeList writeBits data ++ [g.toNat])
  | .sysEx8 id data sid g => 20 :: (writeSysExID id ++ writeList writeBits data ++ [sid.toNat, g.toNat])
  | .noOp g => [21, g.toNat]
  | .jrClock t g => [22, t.toNat, g.toNat]
  | .jrTimestamp t g => [23, t.toNat, g.toNat]

/-- The place of a value in a fixed list. -/
def writeOneOf {α : Type} [BEq α] (l : List α) (a : α) : List Nat := [l.idxOf a]

def writeTypes (T : List EvType) : List Nat := writeList (writeOneOf evTypes) T

def writeFilterOp : FilterOp → List Nat
  | .only => [0]
  | .onlyTypes T => 1 :: writeTypes T
  | .keepTypes T => 2 :: writeTypes T
  | .drop => [3]
  | .dropTypes T => 4 :: writeTypes T

def writeFilter (f : Filter) : List Nat := writeOneOf categories f.cat ++ writeFilterOp f.op

def writeProtocol : Protocol → Nat
  | .M1 => 0
  | .M2 => 1

/-- A MIDI 1.0 message: the status byte, then its data bytes (R74). -/
def m1Frame (c : Nat) (t : U64) (s : Byte) (d : List U7) : Frame := .midi1 c t (s :: d.map U7.byte)

/-- The one-word frame of an MT 0x1 message (R102). -/
def mt1Frame (g : U4) (s a b : Byte) : Frame := .ump [packStatus 0x1 g s a b]

/-- The one-word frame of an MT 0x2 message (R103). -/
def mt2Frame (g nib ch : U4) (a b : Byte) : Frame := .ump [packWord 0x2 g nib ch a b]

/-- The two-word frame of an MT 0x4 message (R105). -/
def mt4Frame (g op ch : U4) (a b : Byte) (w1 : Word) : Frame := .ump [packWord 0x4 g op ch a b, w1]

/-- The words of a message whose first packet is an MT 0x3 packet (R104). -/
def sysEx7Words (st g n : U4) (b0 b1 : Byte) (w1 : Word) (rest : List Word) : List Word :=
  packWord 0x3 g st n b0 b1 :: w1 :: rest

/-- The words of a message whose first packet is an MT 0x5 packet (R106). -/
def sysEx8Words (st g n : U4) (sid b0 : Byte) (w1 w2 w3 : Word) (rest : List Word) : List Word :=
  packWord 0x5 g st n sid b0 :: w1 :: w2 :: w3 :: rest

/-- The flags byte B of opcode 0xC: bit 0 is bank valid (R105). -/
def bankFlags (bankValid : Bool) : Byte := if bankValid then 1 else 0

/-- A packet of a reserved message type with the words of R100, every other bit 0. -/
def reservedFrame (mt g : U4) : Frame :=
  .ump (packWord mt g 0 0 0 0 :: List.replicate (wordsOf mt - 1) 0)

/-- The frame of an instruction, reserved fields written as 0 (R107). -/
def encode : Instr → Frame
  | .reset c => .command [0x01, c]
  | .feed c t bs => .command (0x02 :: c :: t.toNat :: writeList writeBits bs)
  | .encM1 e => .command (0x10 :: writeEvent e)
  | .encUmp e P => .command (0x11 :: (writeEvent e ++ [writeProtocol P]))
  | .decM1 bs g => .command (0x12 :: (writeList writeBits bs ++ [g.toNat]))
  | .decUmp ws => .command (0x13 :: writeList writeBits ws)
  | .makeUint N v => .command [0x20, N, v]
  | .scale v N M => .command [0x21, v, N, M]
  | .toBipolar v N => .command [0x22, v, N]
  | .fromBipolar x N => .command (0x23 :: (writeRat x ++ [N]))
  | .toUnipolar v N => .command [0x24, v, N]
  | .fromUnipolar x N => .command (0x25 :: (writeRat x ++ [N]))
  | .sysexId bs w => .command (0x30 :: (writeList writeBits bs ++ [w]))
  | .classify e => .command (0x31 :: writeEvent e)
  | .filter f es => .command (0x32 :: (writeFilter f ++ writeList writeEvent es))
  | .m1NoteOff c t ch n v => m1Frame c t (chanStatus 0x8 ch) [n, v]
  | .m1NoteOn c t ch n v => m1Frame c t (chanStatus 0x9 ch) [n, v]
  | .m1NotePressure c t ch n p => m1Frame c t (chanStatus 0xA ch) [n, p]
  | .m1Cc c t ch n v => m1Frame c t (chanStatus 0xB ch) [n, v]
  | .m1ProgramChange c t ch p => m1Frame c t (chanStatus 0xC ch) [p]
  | .m1Pressure c t ch p => m1Frame c t (chanStatus 0xD ch) [p]
  | .m1PitchBend c t ch l m => m1Frame c t (chanStatus 0xE ch) [l, m]
  | .m1SysExStart c t body => m1Frame c t 0xF0 body
  | .m1TimecodeQuarterFrame c t n => m1Frame c t 0xF1 [n]
  | .m1SongPositionPointer c t l m => m1Frame c t 0xF2 [l, m]
  | .m1SongSelect c t n => m1Frame c t 0xF3 [n]
  | .m1ReservedF4 c t => m1Frame c t 0xF4 []
  | .m1ReservedF5 c t => m1Frame c t 0xF5 []
  | .m1TuneRequest c t => m1Frame c t 0xF6 []
  | .m1Eox c t => m1Frame c t 0xF7 []
  | .m1TimingClock c t => m1Frame c t 0xF8 []
  | .m1ReservedF9 c t => m1Frame c t 0xF9 []
  | .m1Start c t => m1Frame c t 0xFA []
  | .m1Continue c t => m1Frame c t 0xFB []
  | .m1Stop c t => m1Frame c t 0xFC []
  | .m1ReservedFD c t => m1Frame c t 0xFD []
  | .m1ActiveSensing c t => m1Frame c t 0xFE []
  | .m1SystemReset c t => m1Frame c t 0xFF []
  | .m1DataByte c t v => .midi1 c t [v.byte]
  | .umpNoOp g => .ump [packLo16 0x0 g 0x0 0 0]
  | .umpJrClock g time => .ump [packLo16 0x0 g 0x1 0 time]
  | .umpJrTimestamp g time => .ump [packLo16 0x0 g 0x2 0 time]
  | .umpMt1TimecodeQuarterFrame g d1 => mt1Frame g 0xF1 d1 0
  | .umpMt1SongPositionPointer g d1 d2 => mt1Frame g 0xF2 d1 d2
  | .umpMt1SongSelect g d1 => mt1Frame g 0xF3 d1 0
  | .umpMt1TuneRequest g => mt1Frame g 0xF6 0 0
  | .umpMt1TimingClock g => mt1Frame g 0xF8 0 0
  | .umpMt1Start g => mt1Frame g 0xFA 0 0
  | .umpMt1Continue g => mt1Frame g 0xFB 0 0
  | .umpMt1Stop g => mt1Frame g 0xFC 0 0
  | .umpMt1ActiveSensing g => mt1Frame g 0xFE 0 0
  | .umpMt1SystemReset g => mt1Frame g 0xFF 0 0
  | .umpMt2NoteOff g ch d1 d2 => mt2Frame g 0x8 ch d1 d2
  | .umpMt2NoteOn g ch d1 d2 => mt2Frame g 0x9 ch d1 d2
  | .umpMt2NotePressure g ch d1 d2 => mt2Frame g 0xA ch d1 d2
  | .umpMt2Cc g ch d1 d2 => mt2Frame g 0xB ch d1 d2
  | .umpMt2ProgramChange g ch d1 => mt2Frame g 0xC ch d1 0
  | .umpMt2Pressure g ch d1 => mt2Frame g 0xD ch d1 0
  | .umpMt2PitchBend g ch d1 d2 => mt2Frame g 0xE ch d1 d2
  | .umpSysEx7Complete g n b0 b1 w1 rest => .ump (sysEx7Words 0x0 g n b0 b1 w1 rest)
  | .umpSysEx7Start g n b0 b1 w1 rest => .ump (sysEx7Words 0x1 g n b0 b1 w1 rest)
  | .umpSysEx7Continue g n b0 b1 w1 rest => .ump (sysEx7Words 0x2 g n b0 b1 w1 rest)
  | .umpSysEx7End g n b0 b1 w1 rest => .ump (sysEx7Words 0x3 g n b0 b1 w1 rest)
  | .umpMt4NoteCCRegistered g ch n i v => mt4Frame g 0x0 ch n i v
  | .umpMt4NoteCCAssignable g ch n i v => mt4Frame g 0x1 ch n i v
  | .umpMt4RegisteredController g ch => mt4Frame g 0x2 ch 0 0 0
  | .umpMt4AssignableController g ch => mt4Frame g 0x3 ch 0 0 0
  | .umpMt4RelativeRegisteredController g ch => mt4Frame g 0x4 ch 0 0 0
  | .umpMt4RelativeAssignableController g ch => mt4Frame g 0x5 ch 0 0 0
  | .umpMt4NotePitchBend g ch n v => mt4Frame g 0x6 ch n 0 v
  | .umpMt4ReservedOp7 g ch => mt4Frame g 0x7 ch 0 0 0
  | .umpMt4NoteOff g ch n at_ vel ad => mt4Frame g 0x8 ch n at_ (packHalves vel ad)
  | .umpMt4NoteOn g ch n at_ vel ad => mt4Frame g 0x9 ch n at_ (packHalves vel ad)
  | .umpMt4NotePressure g ch n v => mt4Frame g 0xA ch n 0 v
  | .umpMt4Cc g ch n v => mt4Frame g 0xB ch n 0 v
  | .umpMt4ProgramChange g ch bv p m l => mt4Frame g 0xC ch 0 (bankFlags bv) (packBytes p 0 m l)
  | .umpMt4Pressure g ch v => mt4Frame g 0xD ch 0 0 v
  | .umpMt4PitchBend g ch v => mt4Frame g 0xE ch 0 0 v
  | .umpMt4PerNoteManagement g ch => mt4Frame g 0xF ch 0 0 0
  | .umpSysEx8Complete g n sid b0 w1 w2 w3 rest => .ump (sysEx8Words 0x0 g n sid b0 w1 w2 w3 rest)
  | .umpSysEx8Start g n sid b0 w1 w2 w3 rest => .ump (sysEx8Words 0x1 g n sid b0 w1 w2 w3 rest)
  | .umpSysEx8Continue g n sid b0 w1 w2 w3 rest => .ump (sysEx8Words 0x2 g n sid b0 w1 w2 w3 rest)
  | .umpSysEx8End g n sid b0 w1 w2 w3 rest => .ump (sysEx8Words 0x3 g n sid b0 w1 w2 w3 rest)
  | .umpMixedDataHeader g => .ump (sysEx8Words 0x8 g 0 0 0 0 0 0 [])
  | .umpMixedDataPayload g => .ump (sysEx8Words 0x9 g 0 0 0 0 0 0 [])
  | .umpReservedMT6 g => reservedFrame 0x6 g
  | .umpReservedMT7 g => reservedFrame 0x7 g
  | .umpReservedMT8 g => reservedFrame 0x8 g
  | .umpReservedMT9 g => reservedFrame 0x9 g
  | .umpReservedMTA g => reservedFrame 0xA g
  | .umpReservedMTB g => reservedFrame 0xB g
  | .umpReservedMTC g => reservedFrame 0xC g
  | .umpReservedMTD g => reservedFrame 0xD g
  | .umpReservedMTE g => reservedFrame 0xE g
  | .umpReservedMTF g => reservedFrame 0xF g

/-! ### A word of the opcode table -/

/-- Where a row's word stands at the port, every operand after it 0: a 32-bit word is a UMP word 0, an 8-bit word
that is an operation code opens a command record, and any other 8-bit word is a MIDI 1.0 byte of context
0 at time 0. The frame ends where the instruction does (log entry 11, DESIGN CHOICE, safe). -/
def tableFrame (nbits w : Nat) : Frame :=
  if nbits = 32 then
    .ump (BitVec.ofNat 32 w :: List.replicate (wordsOf (mtOf (BitVec.ofNat 32 w)) - 1) 0)
  else
    let zeros := List.replicate 16 0
    match readCommand (w :: zeros) with
    | .ok (_, rest) => .command ((w :: zeros).take (17 - rest.length))
    | .error _ => .midi1 0 0 (BitVec.ofNat 8 w :: List.replicate ((need (BitVec.ofNat 8 w)).getD 0) 0)

/-- The instruction that the decoder reads from a row's word. -/
def decodeTableWord (nbits w : Nat) : Option Instr := (decode (tableFrame nbits w)).toOption

end Sys2Proof
end

