-- ==== Sys2Proof/Machine/State.lean ====
section
/-! DEFINITION. The machine's state (spec 10_state.md): every parser context's record (R42), the instance's build-time
parameters (R6), the transactions the host has issued and the block has not yet executed (R5, R77), and
the outcome of every executed operation (R453). The block has no registers, program counter, control
registers or memory (R20 to R22, R70). -/

namespace Sys2Proof.Machine

/-- The record of one parser context (R42). -/
structure Ctx where
  /-- Running status: the last channel voice status byte. -/
  rs : Option Byte
  /-- The status byte of the message whose data bytes are being collected. -/
  pend : Option Byte
  /-- The data bytes collected so far for `pend`. -/
  pd : List U7
  /-- Currently accumulating SysEx; the block's only status flag (R44). -/
  sx : Bool
  /-- The SysEx body accumulator. -/
  acc : List U7
  /-- The accumulator filled and at least one body byte was dropped. -/
  ovf : Bool
  deriving DecidableEq, Repr

/-- The reset values of R42. -/
def Ctx.reset : Ctx where
  rs := none
  pend := none
  pd := []
  sx := false
  acc := []
  ovf := false

/-- The state of the block. -/
structure State where
  /-- The instance's parameters (R6), written by no operation. -/
  params : Params
  /-- The parser contexts, `N_CTX` of them (R42). -/
  ctxs : List Ctx
  /-- The command port: the transactions issued and not yet executed, the oldest first (R5, R77). -/
  port : List Frame
  /-- The outcome of every operation executed so far, the oldest first (R453). -/
  outcomes : List Result
  deriving DecidableEq, Repr

/-- `N_CTX` of this instance (R6). -/
def State.nCtx (s : State) : Nat := s.ctxs.length

/-- A block with the given parameters and number of contexts as it comes into being: every context in the reset
state, nothing issued yet (R441). -/
def State.init (p : Params) (nCtx : Nat) : State where
  params := p
  ctxs := List.replicate nCtx Ctx.reset
  port := []
  outcomes := []

/-- The machine right after reset, at the reference values of R6 (log entry 2, DESIGN CHOICE, unsafe). -/
def State.reset : State := State.init Params.reference refNCtx

/-- No operation, input or sequence of operations stops the block (R407): there is no fault (log entry 1). -/
inductive Fault where
  deriving DecidableEq, Repr

/-- The one refusal of the model itself. The block's own `Refused` (R406) is an outcome that a run goes on from, so
it is a `Result` in a next state. -/
inductive Refusal where
  /-- Raised by an arm of `exec` whose instruction has no meaning yet; no arm raises it now. Safe: the run stops. -/
  | notModelled (mnemonic : String)
  deriving DecidableEq, Repr

end Sys2Proof.Machine
end

