-- ==== Sys2Proof/Machine/Ops.lean ====
section
/-! DEFINITION. The shared operations of a transaction: recording its outcome, and reading and writing the one context
that RESET and FEED name. An error is a value the operation returns (R400): the block has no trap entry and
no trap return (R409, R410), so "raising" records the error and leaves everything else as it was (R403). -/

namespace Sys2Proof.Machine

/-- What one transaction answers. -/
abbrev Step := Host.Outcome State Fault Refusal

/-- The operation ends with outcome `r`, the last of the run so far (R453). -/
def State.record (s : State) (r : Result) : State := { s with outcomes := s.outcomes ++ [r] }

/-- The operation's operands lie outside its domain: the outcome is `Refused` and nothing else changes (R406). -/
def State.refuse (s : State) : State := s.record .refused

/-- The operation raises `e`: the outcome is the error and nothing else changes (R400, R403, R409). -/
def State.raise (s : State) (e : Err) : State := s.record (.err e)

/-- A pure operation ends: with its success result, or with the error it raised (R76, R400). -/
def State.finish {α : Type} (s : State) (ok : α → Result) : Except Err α → State
  | .ok a => s.record (ok a)
  | .error e => s.raise e

/-- The operation runs only on operands in its domain, and is refused on others (R406). -/
def State.guarded (s : State) (inDomain : Bool) (run : State) : State := if inDomain then run else s.refuse

/-- `context[c] = S` (R321, R440). -/
def State.setCtx (s : State) (c : Nat) (S : Ctx) : State := { s with ctxs := s.ctxs.set c S }

/-- An operation on context `c`: it reads the record, writes the whole new record and ends with its outcome (R76).
A `c >= N_CTX` is refused (R406). -/
def State.onCtx (s : State) (c : Nat) (f : Ctx → Result × Ctx) : State :=
  match s.ctxs[c]? with
  | none => s.refuse
  | some S => (s.setCtx c (f S).2).record (f S).1

end Sys2Proof.Machine
end

