-- ==== Sys2Proof/Machine/Operands.lean ====
section
/-! DEFINITION. What operations do with their operands: the domain checks (R406), the scaler's arithmetic (R9, R141), the
projections of dual-resolution values (R27), the SysEx identifier bytes (R294, R295) and list helpers (R8). -/

namespace Sys2Proof.Machine

/-! ### Domain checks (R90, R406) -/

/-- A width of MAKE_UINT (R140). -/
def isUintWidth (N : Nat) : Bool := N == 4 || N == 7 || N == 8 || N == 14 || N == 16 || N == 25 || N == 32

/-- A width of SCALE and of the bipolar and unipolar maps (R141). -/
def isScaleWidth (N : Nat) : Bool := N == 7 || N == 14 || N == 16 || N == 32

/-- `v : U_N` (R23). -/
def isUint (v N : Nat) : Bool := decide (v < 2 ^ N)

/-- The identifier is a value of R31 under the instance's registry. -/
def admits (r : Registry) : SysExID → Bool
  | .mfr1 b => r.reg1 b
  | .mfr3 b1 b2 => r.reg3 b1 b2
  | .universal _ => true

/-- The event is a value of R32 to R37 under the instance's registry. -/
def admitsEvent (r : Registry) : Event → Bool
  | .sysEx7 id _ _ => admits r id
  | .sysEx8 id _ _ _ => admits r id
  | _ => true

/-! ### Rounding and scaling -/

/-- `round(x) = floor(x + 1/2)`: ties round toward plus infinity (R9). -/
def roundQ (x : Rat) : Int := (x + 1 / 2).floor

/-- SCALE (R141) in the integer form the rule gives; the second line is the midpoint exception. -/
def scaleNat (v N M : Nat) : Nat :=
  if N = M then v
  else if v = 2 ^ (N - 1) then 2 ^ (M - 1)
  else (2 * v * (2 ^ M - 1) + (2 ^ N - 1)) / (2 * (2 ^ N - 1))

/-! ### Dual-resolution values (R27) -/

/-- `hi(x)`. -/
def hi {L H : Nat} : Dual L H → BitVec H
  | .m1 v => BitVec.ofNat H (scaleNat v.toNat L H)
  | .m2 u => u

/-- `lo(x)`. -/
def lo {L H : Nat} : Dual L H → BitVec L
  | .m1 v => v
  | .m2 u => BitVec.ofNat L (scaleNat u.toNat H L)

/-- `x ~ y` (R27). -/
def simDual {L H : Nat} (x y : Dual L H) : Bool := hi x == hi y

/-- The event with every dual-resolution field at its high resolution. -/
def hiEvent : Event → Event
  | .noteOn n v a ch g => .noteOn n (.m2 (hi v)) a ch g
  | .noteOff n v a ch g => .noteOff n (.m2 (hi v)) a ch g
  | .notePressure n v ch g => .notePressure n (.m2 (hi v)) ch g
  | .cc c v ch g => .cc c (.m2 (hi v)) ch g
  | .pressure v ch g => .pressure (.m2 (hi v)) ch g
  | .pitchBend v ch g => .pitchBend (.m2 (hi v)) ch g
  | e => e

/-- Event equality of the round-trip laws: `~` on dual-resolution fields, `=` on every other (R27). -/
def simEvent (e e' : Event) : Bool := hiEvent e == hiEvent e'

/-! ### SysEx identifiers and bodies -/

/-- `idBytes7` (R294). -/
def idBytes7 : SysExID → List U7
  | .mfr1 b => [b]
  | .mfr3 b1 b2 => [0x00, b1, b2]
  | .universal false => [0x7E]
  | .universal true => [0x7F]

/-- `idBytes8` (R295). -/
def idBytes8 : SysExID → List Byte
  | .mfr1 b => [0x00, b.byte]
  | .mfr3 b1 b2 => [0x80 ||| b1.byte, b2.byte]
  | .universal false => [0x00, 0x7E]
  | .universal true => [0x00, 0x7F]

/-- The body of a `sysEx7` (R36). -/
def body7 (id : SysExID) (data : List U7) : List U7 := idBytes7 id ++ data

/-- The body of a `sysEx8` (R36). -/
def body8 (id : SysExID) (data : List Byte) : List Byte := idBytes8 id ++ data

/-! ### Lists -/

/-- `chunks(k, xs)` with at most `n` chunks. -/
def chunksFuel {α : Type} (k : Nat) : Nat → List α → List (List α)
  | 0, _ => []
  | _ + 1, [] => []
  | n + 1, x :: xs => (x :: xs).take k :: chunksFuel k n ((x :: xs).drop k)

/-- `chunks(k, xs)` (R8): consecutive lists of length `k`, the last of length 1 to `k`. -/
def chunks {α : Type} (k : Nat) (xs : List α) : List (List α) := chunksFuel k xs.length xs

/-- The words of a byte list, four bytes a word, most significant first, absent bytes 0 (R72, R242, R243):
word `j` of the list. -/
def wordAt (bs : List Byte) (j : Nat) : Word :=
  packBytes (bs.getD (4 * j) 0) (bs.getD (4 * j + 1) 0) (bs.getD (4 * j + 2) 0) (bs.getD (4 * j + 3) 0)

end Sys2Proof.Machine
end

