-- ==== Sys2Proof/Machine/Flags.lean ====
section
/-! DEFINITION. The status flags. The block has no condition flags; its only status flag is the parser's `sx`, and with it
goes `ovf` (R44, R45). Each way a rule of 44_stream_parser.md sets or clears them, with the fields it writes
beside them, is one function here. -/

namespace Sys2Proof.Machine

/-- R326: `sx := true`, with an empty accumulator. -/
def Ctx.openSysEx (S : Ctx) : Ctx := { S with sx := true, acc := [], ovf := false }

/-- R327, R328: `sx := false`; the accumulator is emptied (R71). -/
def Ctx.endSysEx (S : Ctx) : Ctx := { S with sx := false, acc := [], ovf := false }

/-- R333: appends to the accumulator, or sets `ovf` and drops the byte when it is full. -/
def Ctx.append (max : Option Nat) (S : Ctx) (b : U7) : Ctx :=
  match max with
  | none => { S with acc := S.acc ++ [b] }
  | some m => if S.acc.length < m then { S with acc := S.acc ++ [b] } else { S with ovf := true }

/-- R332, R334, R335: collecting starts for the message of status byte `s`. -/
def Ctx.expect (S : Ctx) (s : Byte) : Ctx := { S with pend := some s, pd := [] }

/-- R327, R328, R334: no message is pending. -/
def Ctx.endMessage (S : Ctx) : Ctx := { S with pend := none, pd := [] }

/-- R330, R332, R335: running status is written. -/
def Ctx.running (S : Ctx) (rs : Option Byte) : Ctx := { S with rs := rs }

end Sys2Proof.Machine
end

