-- ==== Sys2Proof/Machine/Control.lean ====
section
/-! DEFINITION. RESET (spec 70_reset_and_hazards.md). -/

namespace Sys2Proof.Machine

/-- RESET (R440): every field of the context takes its reset value, silently; the result is nothing. -/
def execReset (c : Nat) (s : State) : Step := .next (s.onCtx c fun _ => (.done, Ctx.reset))

end Sys2Proof.Machine
end

