-- ==== Sys2Proof/Machine/Filter.lean ====
section
/-! DEFINITION. The event classifier and filter (spec 45_filter.md). -/

namespace Sys2Proof.Machine

/-- `cat(e)` (R371). -/
def catOf : Event → Category
  | .noteOn _ _ _ _ _ => .chanVoice
  | .noteOff _ _ _ _ _ => .chanVoice
  | .notePressure _ _ _ _ => .chanVoice
  | .cc _ _ _ _ => .chanVoice
  | .programChange _ _ _ _ => .chanVoice
  | .pressure _ _ _ => .chanVoice
  | .pitchBend _ _ _ => .chanVoice
  | .notePitchBend _ _ _ _ => .chanVoice
  | .noteCC _ _ _ _ _ => .chanVoice
  | .timecodeQuarterFrame _ _ => .systemCommon
  | .songPositionPointer _ _ => .systemCommon
  | .songSelect _ _ => .systemCommon
  | .tuneRequest _ => .systemCommon
  | .timingClock _ => .systemRealTime
  | .start _ => .systemRealTime
  | .stop _ => .systemRealTime
  | .continue_ _ => .systemRealTime
  | .activeSensing _ => .systemRealTime
  | .systemReset _ => .systemRealTime
  | .sysEx7 _ _ _ => .sysEx
  | .sysEx8 _ _ _ _ => .sysEx
  | .noOp _ => .utility
  | .jrClock _ _ => .utility
  | .jrTimestamp _ _ => .utility

/-- `type(e)` (R371, R38). -/
def typeOf : Event → EvType
  | .noteOn _ _ _ _ _ => .noteOn
  | .noteOff _ _ _ _ _ => .noteOff
  | .notePressure _ _ _ _ => .notePressure
  | .cc _ _ _ _ => .cc
  | .programChange _ _ _ _ => .programChange
  | .pressure _ _ _ => .pressure
  | .pitchBend _ _ _ => .pitchBend
  | .notePitchBend _ _ _ _ => .notePitchBend
  | .noteCC _ _ _ _ _ => .noteCC
  | .timecodeQuarterFrame _ _ => .timecodeQuarterFrame
  | .songPositionPointer _ _ => .songPositionPointer
  | .songSelect _ _ => .songSelect
  | .tuneRequest _ => .tuneRequest
  | .timingClock _ => .timingClock
  | .start _ => .start
  | .stop _ => .stop
  | .continue_ _ => .continue_
  | .activeSensing _ => .activeSensing
  | .systemReset _ => .systemReset
  | .sysEx7 (.universal _) _ _ => .universalSysEx7
  | .sysEx7 _ _ _ => .sysEx7
  | .sysEx8 (.universal _) _ _ _ => .universalSysEx8
  | .sysEx8 _ _ _ _ => .sysEx8
  | .noOp _ => .noOp
  | .jrClock _ _ => .jrClock
  | .jrTimestamp _ _ => .jrTimestamp

/-- `types(C)` (R371). -/
def typesOf : Category → List EvType
  | .chanVoice =>
    [.noteOn, .noteOff, .notePressure, .cc, .programChange, .pressure, .pitchBend, .notePitchBend, .noteCC]
  | .systemCommon => [.timecodeQuarterFrame, .songPositionPointer, .songSelect, .tuneRequest]
  | .systemRealTime => [.timingClock, .start, .stop, .continue_, .activeSensing, .systemReset]
  | .sysEx => [.sysEx7, .universalSysEx7, .sysEx8, .universalSysEx8]
  | .utility => [.noOp, .jrClock, .jrTimestamp]

/-- `keep(f, e)` (R372). -/
def keep (f : Filter) (e : Event) : Bool :=
  match f.op with
  | .only => catOf e == f.cat
  | .onlyTypes T => catOf e == f.cat && T.contains (typeOf e)
  | .keepTypes T => catOf e != f.cat || T.contains (typeOf e)
  | .drop => catOf e != f.cat
  | .dropTypes T => !(catOf e == f.cat && T.contains (typeOf e))

/-- `FILTER(f, es)` (R372). -/
def applyFilter (f : Filter) (es : List Event) : List Event := es.filter (keep f)

/-- CLASSIFY (R370). -/
def execClassify (e : Event) (s : State) : Step :=
  .next (s.guarded (admitsEvent s.params.registry e) (s.record (.classified (catOf e) (typeOf e))))

/-- FILTER (R372). -/
def execFilter (f : Filter) (es : List Event) (s : State) : Step :=
  .next (s.guarded (es.all (admitsEvent s.params.registry)) (s.record (.events (applyFilter f es))))

end Sys2Proof.Machine
end

