-- ==== Sys2Proof/Machine/SysEx.lean ====
section
/-! DEFINITION. System Exclusive identifiers and bodies (spec 43_sysex.md). -/

namespace Sys2Proof.Machine

/-- resolve7 (R291): the ID of a 7-bit body and the number of bytes it takes. -/
def resolve7 (r : Registry) (body : List U7) : Except Err (SysExID × Nat) :=
  match body with
  | [] => .error (.malformed .emptyBody)
  | b0 :: rest =>
    if b0 = 0x00 then
      match rest with
      | b1 :: b2 :: _ =>
        if r.reg3 b1 b2 then .ok (.mfr3 b1 b2, 3) else .error (.malformed .unregistered)
      | _ => .error (.malformed .shortId)
    else if r.reg1 b0 then .ok (.mfr1 b0, 1)
    else if b0 = 0x7E then .ok (.universal false, 1)
    else if b0 = 0x7F then .ok (.universal true, 1)
    else .error (.malformed .unregistered)

/-- resolve8 (R292): the ID of an 8-bit body and the number of bytes it takes. -/
def resolve8 (r : Registry) (body : List Byte) : Except Err (SysExID × Nat) :=
  match body with
  | h :: l :: _ =>
    if h = 0x00 then
      if isStatus l then .error (.malformed .data7)
      else if r.reg1 l.low7 then .ok (.mfr1 l.low7, 2)
      else if l = 0x7E then .ok (.universal false, 2)
      else if l = 0x7F then .ok (.universal true, 2)
      else .error (.malformed .unregistered)
    else if isStatus h then
      if isStatus l then .error (.malformed .data7)
      else if r.reg3 h.low7 l.low7 then .ok (.mfr3 h.low7 l.low7, 2)
      else .error (.malformed .unregistered)
    else .error (.malformed .unregistered)
  | _ => .error (.malformed .shortId)

/-- SYSEX_ID's resolution (R290); the width is 7 or 8. At width 7 every byte is checked (log entry 10, DEDUCED, unsafe). -/
def resolveId (r : Registry) (bytes : List Byte) (width : Nat) : Except Err (SysExID × Nat) :=
  if width = 7 then
    match asData bytes with
    | some body => resolve7 r body
    | none => .error (.malformed .data7)
  else resolve8 r bytes

/-- sysEx7FromBody (R296). -/
def sysEx7FromBody (r : Registry) (body : List U7) (g : U4) : Except Err Event :=
  match resolve7 r body with
  | .ok (id, k) => .ok (.sysEx7 id (body.drop k) g)
  | .error e => .error e

/-- sysEx8FromBody (R297). -/
def sysEx8FromBody (r : Registry) (body : List Byte) (sid : Byte) (g : U4) : Except Err Event :=
  match resolve8 r body with
  | .ok (id, k) => .ok (.sysEx8 id (body.drop k) sid g)
  | .error e => .error e

/-- SYSEX_ID (R290). -/
def execSysexId (bytes : List Byte) (width : Nat) (s : State) : Step :=
  .next (s.guarded (width == 7 || width == 8)
    (s.finish (fun a => .sysexId a.1 a.2) (resolveId s.params.registry bytes width)))

end Sys2Proof.Machine
end

