-- ==== Sys2Proof/Machine/Midi1.lean ====
section
/-! DEFINITION. The MIDI 1.0 byte encoder and decoder (spec 41_midi1_codec.md). -/

namespace Sys2Proof.Machine

/-! ### Encoder -/

/-- A channel voice message: status byte, then data bytes (R94). -/
def chanMsg (nib ch : U4) (d : List U7) : List Byte := chanStatus nib ch :: d.map U7.byte

/-- The MIDI 1.0 messages of an event, in the order they are sent (R181 to R196). A banked program change has three
(R185); every other encodable event has one. -/
def m1Messages : Event → Except Err (List (List Byte))
  | .noteOff n v _ ch _ => .ok [chanMsg 0x8 ch [n, lo v]]
  | .noteOn n v _ ch _ => .ok [chanMsg 0x9 ch [n, lo v]]
  | .notePressure n a ch _ => .ok [chanMsg 0xA ch [n, lo a]]
  | .cc c v ch _ => .ok [chanMsg 0xB ch [c, lo v]]
  | .programChange p none ch _ => .ok [chanMsg 0xC ch [p]]
  | .programChange p (some (m, l)) ch _ =>
    .ok [chanMsg 0xB ch [0x00, m], chanMsg 0xB ch [0x20, l], chanMsg 0xC ch [p]]
  | .pressure a ch _ => .ok [chanMsg 0xD ch [lo a]]
  | .pitchBend v ch _ => .ok [chanMsg 0xE ch [lsb7 (lo v), msb7 (lo v)]]
  | .notePitchBend _ _ _ _ => .error (.unsupported (.variant .notePitchBend))
  | .noteCC _ _ _ _ _ => .error (.unsupported (.variant .noteCC))
  | .timecodeQuarterFrame d _ => .ok [[0xF1, d.byte]]
  | .songPositionPointer b _ => .ok [[0xF2, (lsb7 b).byte, (msb7 b).byte]]
  | .songSelect n _ => .ok [[0xF3, n.byte]]
  | .tuneRequest _ => .ok [[0xF6]]
  | .timingClock _ => .ok [[0xF8]]
  | .start _ => .ok [[0xFA]]
  | .continue_ _ => .ok [[0xFB]]
  | .stop _ => .ok [[0xFC]]
  | .activeSensing _ => .ok [[0xFE]]
  | .systemReset _ => .ok [[0xFF]]
  | .sysEx7 id data _ => .ok [0xF0 :: ((body7 id data).map U7.byte ++ [0xF7])]
  | .sysEx8 _ _ _ _ => .error (.unsupported (.variant .sysEx8))
  | .noOp _ => .error (.unsupported (.variant .noOp))
  | .jrClock _ _ => .error (.unsupported (.variant .jrClock))
  | .jrTimestamp _ _ => .error (.unsupported (.variant .jrTimestamp))

/-- `enc1(e)` (R180): the messages one after another, each with its status byte. -/
def enc1 (e : Event) : Except Err (List Byte) :=
  match m1Messages e with
  | .ok ms => .ok ms.flatten
  | .error err => .error err

/-! ### Decoder -/

/-- chanEvent (R201 to R207): `v0off` is `NOTEON_V0_AS_NOTEOFF`. `none` where the caller breaks the rule's
precondition, `s` in `0x80..0xEF` and `len(d) = need(s)`. -/
def chanEvent (v0off : Bool) (s : Byte) (d : List U7) (g : U4) : Option Event :=
  let ch := channel s
  match nibble s, d with
  | 0x8, [n, v] => some (.noteOff n (.m1 v) Attr.none ch g)
  | 0x9, [n, v] =>
    if v0off && v == 0 then some (.noteOff n (.m1 0) Attr.none ch g)
    else some (.noteOn n (.m1 v) Attr.none ch g)
  | 0xA, [n, p] => some (.notePressure n (.m1 p) ch g)
  | 0xB, [c, v] => some (.cc c (.m1 v) ch g)
  | 0xC, [p] => some (.programChange p none ch g)
  | 0xD, [p] => some (.pressure (.m1 p) ch g)
  | 0xE, [l, m] => some (.pitchBend (.m1 (join14 l m)) ch g)
  | _, _ => none

/-- commonEvent (R208 to R211); `none` where the caller breaks the rule's precondition. -/
def commonEvent (s : Byte) (d : List U7) (g : U4) : Option Event :=
  match s.toNat, d with
  | 0xF1, [n] => some (.timecodeQuarterFrame n g)
  | 0xF2, [l, m] => some (.songPositionPointer (join14 l m) g)
  | 0xF3, [n] => some (.songSelect n g)
  | 0xF6, [] => some (.tuneRequest g)
  | _, _ => none

/-- realTimeEvent (R212); `none` for a byte that is no defined real-time status. -/
def realTimeEvent (s : Byte) (g : U4) : Option Event :=
  match s.toNat with
  | 0xF8 => some (.timingClock g)
  | 0xFA => some (.start g)
  | 0xFB => some (.continue_ g)
  | 0xFC => some (.stop g)
  | 0xFE => some (.activeSensing g)
  | 0xFF => some (.systemReset g)
  | _ => none

/-- The event of a complete message other than SysEx, by its status byte (R200's last three lines). -/
def messageEvent (v0off : Bool) (s : Byte) (d : List U7) (g : U4) : Option Event :=
  if s.toNat ≤ 0xEF then chanEvent v0off s d g
  else if s.toNat ≤ 0xF6 then commonEvent s d g
  else realTimeEvent s g

/-- The reserved statuses of R200. -/
def isReservedM1 (s : Byte) : Bool := s == 0xF4 || s == 0xF5 || s == 0xF7 || s == 0xF9 || s == 0xFD

/-- DEC_M1's SysEx branch (R200), given the bytes after `F0`. -/
def decM1SysEx (p : Params) (rest : List Byte) (g : U4) : Except Err Event :=
  if rest.getLast? ≠ some 0xF7 then .error (.malformed .noEox)
  else
    match asData rest.dropLast with
    | none => .error (.malformed .statusInBody)
    | some body => sysEx7FromBody p.registry body g

/-- DEC_M1's decoding of one message (R200), the checks in the rule's order (R402). -/
def decM1 (p : Params) (bytes : List Byte) (g : U4) : Except Err Event :=
  match bytes with
  | [] => .error .empty
  | s :: rest =>
    if !isStatus s then .error (.malformed .noStatus)
    else if s = 0xF0 then decM1SysEx p rest g
    else if isReservedM1 s then .error (.malformed .reserved)
    else if need s ≠ some rest.length then .error (.malformed .length)
    else
      match asData rest with
      | none => .error (.malformed .statusInData)
      | some d =>
        match messageEvent p.noteOnV0AsNoteOff s d g with
        | some e => .ok e
        | none => .error (.malformed .reserved)

/-- ENC_M1 (R180). -/
def execEncM1 (e : Event) (s : State) : Step :=
  .next (s.guarded (admitsEvent s.params.registry e) (s.finish .bytes (enc1 e)))

/-- DEC_M1 (R200). -/
def execDecM1 (bytes : List Byte) (g : U4) (s : State) : Step :=
  .next (s.finish .event (decM1 s.params bytes g))

end Sys2Proof.Machine
end

