-- ==== Sys2Proof/Machine/Parser.lean ====
section
/-! DEFINITION. The stream parser (spec 44_stream_parser.md): one step rule for each byte class, the dispatch, and FEED. A
step answers the items it emits, in order, and the context's next record. -/

namespace Sys2Proof.Machine

/-- What a step answers (R320). -/
abbrev Emit := List Item × Ctx

/-- An event item, if the builder gave an event. -/
def evItems (e : Option Event) : List Item :=
  match e with
  | some e => [.ev e]
  | none => []

/-- close (R328): ends a partial message when a status byte other than real-time and `F7` arrives. -/
def close (S : Ctx) : Emit :=
  if S.sx then ([.er .sysexAbort (S.acc.map U7.byte)], S.endSysEx)
  else
    match S.pend with
    | some p => ([.er .incomplete (p :: S.pd.map U7.byte)], S.endMessage)
    | none => ([], S)

/-- Step on `0xF0`, SysEx start (R326); running status is unchanged. -/
def stepSysExStart (S : Ctx) : Emit := ((close S).1, (close S).2.openSysEx)

/-- The item of an `0xF7` that ends an open SysEx (R327). -/
def sysExItem (p : Params) (g : U4) (S : Ctx) : Item :=
  if S.ovf then .er .sysexOverflow (S.acc.map U7.byte)
  else
    match sysEx7FromBody p.registry S.acc g with
    | .ok e => .ev e
    | .error _ => .er .sysexMalformed (S.acc.map U7.byte)

/-- Step on `0xF7`, end of exclusive (R327); running status is unchanged. -/
def stepEox (p : Params) (g : U4) (S : Ctx) : Emit :=
  if S.sx then ([sysExItem p g S], S.endSysEx)
  else ((close S).1 ++ [.er .strayEox [0xF7]], (close S).2)

/-- Step on a System Real-Time byte (R329): no state changes. -/
def stepRealTime (g : U4) (b : Byte) (S : Ctx) : Emit := (evItems (realTimeEvent b g), S)

/-- Step on `F4` or `F5` (R330). -/
def stepReservedCommon (b : Byte) (S : Ctx) : Emit :=
  ((close S).1 ++ [.er .reserved [b]], (close S).2.running none)

/-- Step on `F9` or `FD` (R331): no state changes. -/
def stepReservedRealTime (b : Byte) (S : Ctx) : Emit := ([.er .reserved [b]], S)

/-- Step on `F1`, `F2`, `F3` or `F6` (R332). -/
def stepCommon (g : U4) (b : Byte) (S : Ctx) : Emit :=
  if b = 0xF6 then ((close S).1 ++ evItems (commonEvent 0xF6 [] g), (close S).2.running none)
  else ((close S).1, ((close S).2.running none).expect b)

/-- Step on a data byte inside a SysEx (R333). -/
def stepSysExData (p : Params) (b : U7) (S : Ctx) : Emit := ([], S.append p.sysexMax b)

/-- R334's collecting of data byte `b` for the pending status `s`. -/
def collect (p : Params) (g : U4) (s : Byte) (b : U7) (S : Ctx) : Emit :=
  let pd := S.pd ++ [b]
  if need s = some pd.length then
    (evItems (if s.toNat ≤ 0xEF then chanEvent p.noteOnV0AsNoteOff s pd g else commonEvent s pd g), S.endMessage)
  else ([], { S with pd := pd })

/-- Step on a data byte outside a SysEx (R334): running status stands in for a status byte. -/
def stepData (p : Params) (g : U4) (b : U7) (S : Ctx) : Emit :=
  match S.pend with
  | some s => collect p g s b S
  | none =>
    match S.rs with
    | none => ([.er .orphan [b.byte]], S)
    | some s => collect p g s b (S.expect s)

/-- Step on a channel voice status byte (R335). -/
def stepStatus (b : Byte) (S : Ctx) : Emit := ((close S).1, ((close S).2.running (some b)).expect b)

/-- step (R322): the first class that matches the byte. `g` is the context's `PARSER_GROUP` (R323). -/
def parserStep (p : Params) (g : U4) (b : Byte) (S : Ctx) : Emit :=
  if b = 0xF8 ∨ b = 0xFA ∨ b = 0xFB ∨ b = 0xFC ∨ b = 0xFE ∨ b = 0xFF then stepRealTime g b S
  else if b = 0xF9 ∨ b = 0xFD then stepReservedRealTime b S
  else if b = 0xF0 then stepSysExStart S
  else if b = 0xF7 then stepEox p g S
  else if b = 0xF1 ∨ b = 0xF2 ∨ b = 0xF3 ∨ b = 0xF6 then stepCommon g b S
  else if b = 0xF4 ∨ b = 0xF5 then stepReservedCommon b S
  else if isStatus b then stepStatus b S
  else if S.sx then stepSysExData p b.low7 S
  else stepData p g b.low7 S

/-- FEED's loop (R321): the bytes in order, each step's items after those of the bytes before it. -/
def feedBytes (p : Params) (g : U4) : List Byte → Ctx → Emit
  | [], S => ([], S)
  | b :: bs, S =>
    ((parserStep p g b S).1 ++ (feedBytes p g bs (parserStep p g b S).2).1,
     (feedBytes p g bs (parserStep p g b S).2).2)

/-- FEED on a state (R321): every item carries the operand timestamp (R81). -/
def feed (c : Nat) (t : U64) (bytes : List Byte) (s : State) : State :=
  s.onCtx c fun S =>
    let r := feedBytes s.params (s.params.parserGroup c) bytes S
    (.items (r.1.map fun it => (t, it)), r.2)

/-- FEED (R321). -/
def execFeed (c : Nat) (t : U64) (bytes : List Byte) (s : State) : Step := .next (feed c t bytes s)

end Sys2Proof.Machine
end

