-- ==== Sys2Proof/Machine/Midi1Rows.lean ====
section
/-! DEFINITION. The MIDI 1.0 rows of the opcode table: one message, or one data byte, arriving on the connection bound to
context `c` at time `t`. The host hands its bytes to the parser (R454), so each is FEED of that message's
bytes (log entry 3): the parser's rules say what it emits and what it leaves in the context. -/

namespace Sys2Proof.Machine

/-- A message with status byte `st` and data bytes `d` reaches context `c` (R74, R321). -/
def receive (c : Nat) (t : U64) (st : Byte) (d : List U7) (s : State) : State :=
  feed c t (st :: d.map U7.byte) s

/-- Channel voice nibble 0x8 (R335, then R202 once its data bytes are in). -/
def execM1NoteOff (c : Nat) (t : U64) (ch : U4) (note velocity : U7) (s : State) : Step :=
  .next (receive c t (chanStatus 0x8 ch) [note, velocity] s)

/-- Channel voice nibble 0x9 (R335, then R202 once its data bytes are in). -/
def execM1NoteOn (c : Nat) (t : U64) (ch : U4) (note velocity : U7) (s : State) : Step :=
  .next (receive c t (chanStatus 0x9 ch) [note, velocity] s)

/-- Channel voice nibble 0xA (R335, then R203 once its data bytes are in). -/
def execM1NotePressure (c : Nat) (t : U64) (ch : U4) (note amount : U7) (s : State) : Step :=
  .next (receive c t (chanStatus 0xA ch) [note, amount] s)

/-- Channel voice nibble 0xB (R335, then R204 once its data bytes are in). -/
def execM1Cc (c : Nat) (t : U64) (ch : U4) (controller value : U7) (s : State) : Step :=
  .next (receive c t (chanStatus 0xB ch) [controller, value] s)

/-- Channel voice nibble 0xC (R335, then R205 once its data bytes are in). -/
def execM1ProgramChange (c : Nat) (t : U64) (ch : U4) (program : U7) (s : State) : Step :=
  .next (receive c t (chanStatus 0xC ch) [program] s)

/-- Channel voice nibble 0xD (R335, then R206 once its data bytes are in). -/
def execM1Pressure (c : Nat) (t : U64) (ch : U4) (amount : U7) (s : State) : Step :=
  .next (receive c t (chanStatus 0xD ch) [amount] s)

/-- Channel voice nibble 0xE (R335, then R207 once its data bytes are in). -/
def execM1PitchBend (c : Nat) (t : U64) (ch : U4) (lsb msb : U7) (s : State) : Step :=
  .next (receive c t (chanStatus 0xE ch) [lsb, msb] s)

/-- `F0` and the data bytes after it (R326, R333). -/
def execM1SysExStart (c : Nat) (t : U64) (body : List U7) (s : State) : Step :=
  .next (receive c t 0xF0 body s)

/-- `F1` (R332, R208). -/
def execM1TimecodeQuarterFrame (c : Nat) (t : U64) (dataByte : U7) (s : State) : Step :=
  .next (receive c t 0xF1 [dataByte] s)

/-- `F2` (R332, R209). -/
def execM1SongPositionPointer (c : Nat) (t : U64) (lsb msb : U7) (s : State) : Step :=
  .next (receive c t 0xF2 [lsb, msb] s)

/-- `F3` (R332, R210). -/
def execM1SongSelect (c : Nat) (t : U64) (number : U7) (s : State) : Step :=
  .next (receive c t 0xF3 [number] s)

/-- `F4`, reserved common (R330). -/
def execM1ReservedF4 (c : Nat) (t : U64) (s : State) : Step := .next (receive c t 0xF4 [] s)

/-- `F5`, reserved common (R330). -/
def execM1ReservedF5 (c : Nat) (t : U64) (s : State) : Step := .next (receive c t 0xF5 [] s)

/-- `F6` (R332, R211). -/
def execM1TuneRequest (c : Nat) (t : U64) (s : State) : Step := .next (receive c t 0xF6 [] s)

/-- `F7` (R327). -/
def execM1Eox (c : Nat) (t : U64) (s : State) : Step := .next (receive c t 0xF7 [] s)

/-- `F8` (R329, R212). -/
def execM1TimingClock (c : Nat) (t : U64) (s : State) : Step := .next (receive c t 0xF8 [] s)

/-- `F9`, reserved real-time (R331). -/
def execM1ReservedF9 (c : Nat) (t : U64) (s : State) : Step := .next (receive c t 0xF9 [] s)

/-- `FA` (R329, R212). -/
def execM1Start (c : Nat) (t : U64) (s : State) : Step := .next (receive c t 0xFA [] s)

/-- `FB` (R329, R212). -/
def execM1Continue (c : Nat) (t : U64) (s : State) : Step := .next (receive c t 0xFB [] s)

/-- `FC` (R329, R212). -/
def execM1Stop (c : Nat) (t : U64) (s : State) : Step := .next (receive c t 0xFC [] s)

/-- `FD`, reserved real-time (R331). -/
def execM1ReservedFD (c : Nat) (t : U64) (s : State) : Step := .next (receive c t 0xFD [] s)

/-- `FE` (R329, R212). -/
def execM1ActiveSensing (c : Nat) (t : U64) (s : State) : Step := .next (receive c t 0xFE [] s)

/-- `FF` (R329, R212, R443): an event only. -/
def execM1SystemReset (c : Nat) (t : U64) (s : State) : Step := .next (receive c t 0xFF [] s)

/-- A data byte with no status byte of its own (R333, R334). -/
def execM1DataByte (c : Nat) (t : U64) (value : U7) (s : State) : Step := .next (feed c t [value.byte] s)

end Sys2Proof.Machine
end

