-- ==== Sys2Proof/Machine/Ump.lean ====
section
/-! DEFINITION. The UMP word encoder and decoder (spec 42_ump_codec.md). -/

namespace Sys2Proof.Machine

/-! ### Encoder -/

/-- The word of a MIDI 1.0 message `[s, d1?, d2?]` under message type `mt`: an absent byte is 0 (R231, R241). -/
def msgWord (mt g : U4) (m : List Byte) : Word :=
  packStatus mt g (m.getD 0 0) (m.getD 1 0) (m.getD 2 0)

/-- The words of an event's MIDI 1.0 messages, one word each (R231, R241). -/
def msgWords (mt g : U4) (e : Event) : Except Err (List Word) :=
  match m1Messages e with
  | .ok ms => .ok (ms.map (msgWord mt g))
  | .error err => .error err

/-- The packet status of chunk `j` of `m` (R242): complete, start, continue or end. -/
def packetStatus (j m : Nat) : U4 :=
  if m = 1 then 0x0 else if j = 0 then 0x1 else if j = m - 1 then 0x3 else 0x2

/-- One MT 0x3 packet (R242): the chunk's bytes from `w0[15:8]` on, absent bytes 0. -/
def packet7 (g st : U4) (c : List Byte) : List Word :=
  [packWord 0x3 g st (BitVec.ofNat 4 c.length) (c.getD 0 0) (c.getD 1 0), wordAt (c.drop 2) 0]

/-- One MT 0x5 packet (R243): the count takes in the stream ID, the chunk's bytes are from `w0[7:0]` on. -/
def packet8 (g st : U4) (sid : Byte) (c : List Byte) : List Word :=
  [packWord 0x5 g st (BitVec.ofNat 4 (c.length + 1)) sid (c.getD 0 0),
   wordAt (c.drop 1) 0, wordAt (c.drop 1) 1, wordAt (c.drop 1) 2]

/-- The packets of a list of chunks, from chunk `j` of `m` on (R242, R243). -/
def packetsFrom (packet : U4 → List Byte → List Word) (m : Nat) : Nat → List (List Byte) → List Word
  | _, [] => []
  | j, c :: cs => packet (packetStatus j m) c ++ packetsFrom packet m (j + 1) cs

/-- All the packets of a body, cut into chunks of `k` bytes (R242, R243). -/
def packets (packet : U4 → List Byte → List Word) (k : Nat) (body : List Byte) : List Word :=
  packetsFrom packet (chunks k body).length 0 (chunks k body)

/-- Word 0 of a MIDI 2.0 channel voice packet (R232 to R240). -/
def head4 (g op ch : U4) (a b : Byte) : Word := packWord 0x4 g op ch a b

/-- ENC_UMP (R230): the words of an event under protocol `P`. -/
def encUmp (e : Event) (P : Protocol) : Except Err (List Word) :=
  match e, P with
  | .noteOff n v a ch g, .M2 => .ok [head4 g 0x8 ch n.byte a.atype, packHalves (hi v) a.adata]
  | .noteOn n v a ch g, .M2 => .ok [head4 g 0x9 ch n.byte a.atype, packHalves (hi v) a.adata]
  | .notePressure n a ch g, .M2 => .ok [head4 g 0xA ch n.byte 0, hi a]
  | .cc c v ch g, .M2 => .ok [head4 g 0xB ch c.byte 0, hi v]
  | .programChange p none ch g, .M2 => .ok [head4 g 0xC ch 0 0, packBytes p.byte 0 0 0]
  | .programChange p (some (m, l)) ch g, .M2 =>
    .ok [head4 g 0xC ch 0 1, packBytes p.byte 0 m.byte l.byte]
  | .pressure a ch g, .M2 => .ok [head4 g 0xD ch 0 0, hi a]
  | .pitchBend v ch g, .M2 => .ok [head4 g 0xE ch 0 0, hi v]
  | .notePitchBend n v ch g, .M2 => .ok [head4 g 0x6 ch n.byte 0, v]
  | .noteCC n (.registered i) v ch g, .M2 => .ok [head4 g 0x0 ch n.byte i, v]
  | .noteCC n (.assignable i) v ch g, .M2 => .ok [head4 g 0x1 ch n.byte i, v]
  | .noteOff n v a ch g, .M1 => msgWords 0x2 g (.noteOff n v a ch g)
  | .noteOn n v a ch g, .M1 => msgWords 0x2 g (.noteOn n v a ch g)
  | .notePressure n a ch g, .M1 => msgWords 0x2 g (.notePressure n a ch g)
  | .cc c v ch g, .M1 => msgWords 0x2 g (.cc c v ch g)
  | .programChange p b ch g, .M1 => msgWords 0x2 g (.programChange p b ch g)
  | .pressure a ch g, .M1 => msgWords 0x2 g (.pressure a ch g)
  | .pitchBend v ch g, .M1 => msgWords 0x2 g (.pitchBend v ch g)
  | .notePitchBend n v ch g, .M1 => msgWords 0x2 g (.notePitchBend n v ch g)
  | .noteCC n c v ch g, .M1 => msgWords 0x2 g (.noteCC n c v ch g)
  | .timecodeQuarterFrame d g, _ => msgWords 0x1 g (.timecodeQuarterFrame d g)
  | .songPositionPointer b g, _ => msgWords 0x1 g (.songPositionPointer b g)
  | .songSelect n g, _ => msgWords 0x1 g (.songSelect n g)
  | .tuneRequest g, _ => msgWords 0x1 g (.tuneRequest g)
  | .timingClock g, _ => msgWords 0x1 g (.timingClock g)
  | .start g, _ => msgWords 0x1 g (.start g)
  | .stop g, _ => msgWords 0x1 g (.stop g)
  | .continue_ g, _ => msgWords 0x1 g (.continue_ g)
  | .activeSensing g, _ => msgWords 0x1 g (.activeSensing g)
  | .systemReset g, _ => msgWords 0x1 g (.systemReset g)
  | .sysEx7 id data g, _ => .ok (packets (packet7 g) 6 ((body7 id data).map U7.byte))
  | .sysEx8 id data sid g, _ => .ok (packets (fun st c => packet8 g st sid c) 13 (body8 id data))
  | .noOp g, _ => .ok [packLo16 0x0 g 0x0 0 0]
  | .jrClock t g, _ => .ok [packLo16 0x0 g 0x1 0 t]
  | .jrTimestamp t g, _ => .ok [packLo16 0x0 g 0x2 0 t]

/-! ### Decoder: one-word messages -/

/-- MT 0x0 (R251), from the status and `w0[15:0]`. -/
def decUtility (st : U4) (v : U16) (g : U4) : Except Err Event :=
  match st.toNat with
  | 0x0 => .ok (.noOp g)
  | 0x1 => .ok (.jrClock v g)
  | 0x2 => .ok (.jrTimestamp v g)
  | _ => .error (.malformed .status)

/-- The data bytes of an MT 0x1 or MT 0x2 word, `take(need(s), [d1, d2])`, each with bit 7 clear, and their event
(R252, R253). -/
def decShort (v0off : Bool) (s d1 d2 : Byte) (g : U4) : Except Err Event :=
  match asData ([d1, d2].take ((need s).getD 0)) with
  | none => .error (.malformed .data7)
  | some d =>
    match messageEvent v0off s d g with
    | some e => .ok e
    | none => .error (.malformed .status)

/-- The MT 0x1 statuses (R102, R252). -/
def isMt1Status (s : Byte) : Bool :=
  s == 0xF1 || s == 0xF2 || s == 0xF3 || s == 0xF6 || s == 0xF8 || s == 0xFA || s == 0xFB || s == 0xFC
    || s == 0xFE || s == 0xFF

/-- MT 0x1 (R252). -/
def decSystem (s d1 d2 : Byte) (g : U4) : Except Err Event :=
  if isMt1Status s then decShort false s d1 d2 g else .error (.malformed .status)

/-- MT 0x2 (R253). -/
def decVoice1 (v0off : Bool) (s d1 d2 : Byte) (g : U4) : Except Err Event :=
  if nibble s < 0x8 ∨ nibble s = 0xF then .error (.malformed .status) else decShort v0off s d1 d2 g

/-! ### Decoder: MT 0x4 -/

/-- A 7-bit field in an 8-bit position (R108): `Malformed` when bit 7 is 1. -/
def field7 (b : Byte) (f : U7 → Except Err Event) : Except Err Event :=
  if isStatus b then .error (.malformed .data7) else f b.low7

/-- Opcode 0x8 (R256). -/
def decNoteOff (a b : Byte) (vel ad : U16) (ch g : U4) : Except Err Event :=
  field7 a fun n => .ok (.noteOff n (.m2 vel) ⟨b, ad⟩ ch g)

/-- Opcode 0x9 (R256): velocity 0 stays a noteOn. -/
def decNoteOn (a b : Byte) (vel ad : U16) (ch g : U4) : Except Err Event :=
  field7 a fun n => .ok (.noteOn n (.m2 vel) ⟨b, ad⟩ ch g)

/-- Opcode 0xA (R257). -/
def decNotePressure (a : Byte) (w1 : Word) (ch g : U4) : Except Err Event :=
  field7 a fun n => .ok (.notePressure n (.m2 w1) ch g)

/-- Opcode 0xB (R258). -/
def decCc (a : Byte) (w1 : Word) (ch g : U4) : Except Err Event :=
  field7 a fun c => .ok (.cc c (.m2 w1) ch g)

/-- Opcode 0xC (R259): the bank bytes are read only when bank valid is set. -/
def decProgramChange (bankValid : Bool) (p m l : Byte) (ch g : U4) : Except Err Event :=
  field7 p fun p7 =>
    if bankValid then field7 m fun m7 => field7 l fun l7 => .ok (.programChange p7 (some (m7, l7)) ch g)
    else .ok (.programChange p7 none ch g)

/-- Opcode 0xD (R260). -/
def decPressure (w1 : Word) (ch g : U4) : Except Err Event := .ok (.pressure (.m2 w1) ch g)

/-- Opcode 0xE (R261). -/
def decPitchBend (w1 : Word) (ch g : U4) : Except Err Event := .ok (.pitchBend (.m2 w1) ch g)

/-- Opcode 0x6 (R262). -/
def decNotePitchBend (a : Byte) (w1 : Word) (ch g : U4) : Except Err Event :=
  field7 a fun n => .ok (.notePitchBend n w1 ch g)

/-- Opcodes 0x0 and 0x1 (R263). -/
def decNoteCC (a : Byte) (c : PNC) (w1 : Word) (ch g : U4) : Except Err Event :=
  field7 a fun n => .ok (.noteCC n c w1 ch g)

/-- A recognised MT 0x4 opcode outside the event model (R268). -/
def decUnsupportedOp (op : U4) : Except Err Event := .error (.unsupported (.opcode op))

/-- MT 0x4 dispatch (R254). -/
def decVoice2 (w0 w1 : Word) : Except Err Event :=
  let g := grpOf w0
  let ch := chOf w0
  let a := byte2 w0
  let b := byte3 w0
  match (stOf w0).toNat with
  | 0x0 => decNoteCC a (.registered b) w1 ch g
  | 0x1 => decNoteCC a (.assignable b) w1 ch g
  | 0x6 => decNotePitchBend a w1 ch g
  | 0x7 => .error (.malformed .status)
  | 0x8 => decNoteOff a b (hi16 w1) (lo16 w1) ch g
  | 0x9 => decNoteOn a b (hi16 w1) (lo16 w1) ch g
  | 0xA => decNotePressure a w1 ch g
  | 0xB => decCc a w1 ch g
  | 0xC => decProgramChange (b.getLsbD 0) (byte0 w1) (byte2 w1) (byte3 w1) ch g
  | 0xD => decPressure w1 ch g
  | 0xE => decPitchBend w1 ch g
  | _ => decUnsupportedOp (stOf w0)

/-! ### Decoder: SysEx packets -/

/-- A packet's content (R264): its group, status, stream ID (0 for MT 0x3) and body bytes. -/
structure Packet (α : Type) where
  g : U4
  st : U4
  sid : Byte
  bytes : List α
  deriving DecidableEq, Repr

/-- Unpacking an MT 0x3 packet (R264). -/
def unpack7 (p : Word × Word) : Except Err (Packet U7) :=
  let n := (chOf p.1).toNat
  if (stOf p.1).toNat > 0x3 ∨ n > 6 then .error (.malformed .packet)
  else
    match asData ([byte2 p.1, byte3 p.1, byte0 p.2, byte1 p.2, byte2 p.2, byte3 p.2].take n) with
    | none => .error (.malformed .data7)
    | some bs => .ok ⟨grpOf p.1, stOf p.1, 0, bs⟩

/-- The four bytes of a word, most significant first (R72). -/
def bytesOf (w : Word) : List Byte := [byte0 w, byte1 w, byte2 w, byte3 w]

/-- Unpacking an MT 0x5 packet (R264, R268). -/
def unpack8 (p : Word × Word × Word × Word) : Except Err (Packet Byte) :=
  let st := (stOf p.1).toNat
  let n := (chOf p.1).toNat
  if st = 0x8 ∨ st = 0x9 then .error (.unsupported .mixedData)
  else if st > 0x3 ∨ n = 0 ∨ n > 14 then .error (.malformed .packet)
  else
    .ok ⟨grpOf p.1, stOf p.1, byte2 p.1,
      (byte3 p.1 :: (bytesOf p.2.1 ++ bytesOf p.2.2.1 ++ bytesOf p.2.2.2)).take (n - 1)⟩

/-- The packets of two words each; `none` when a word is left over (R250's length test). -/
def pairs : List Word → Option (List (Word × Word))
  | [] => some []
  | [_] => none
  | a :: b :: rest => (pairs rest).map ((a, b) :: ·)

/-- The packets of four words each; `none` when words are left over (R250's length test). -/
def quads : List Word → Option (List (Word × Word × Word × Word))
  | [] => some []
  | a :: b :: c :: d :: rest => (quads rest).map ((a, b, c, d) :: ·)
  | _ => none

/-- Unpacks every packet in order; the first error wins (R265). -/
def unpackAll {α β : Type} (unpack : α → Except Err β) : List α → Except Err (List β)
  | [] => .ok []
  | p :: ps =>
    match unpack p with
    | .error e => .error e
    | .ok q =>
      match unpackAll unpack ps with
      | .error e => .error e
      | .ok qs => .ok (q :: qs)

/-- The statuses of the packets after a start packet: continue packets and then one end packet (R265). -/
def endsWell {α : Type} : List (Packet α) → Bool
  | [] => false
  | [p] => p.st == 0x3
  | p :: ps => p.st == 0x2 && endsWell ps

/-- R265's sequence check: one complete packet, or start, continue .., end. -/
def statusesOk {α : Type} : List (Packet α) → Bool
  | [] => false
  | [p] => p.st == 0x0
  | p :: ps => p.st == 0x1 && endsWell ps

/-- R265's group and stream ID check against the first packet. -/
def sameStream {α : Type} (p0 : Packet α) (ps : List (Packet α)) : Bool :=
  ps.all fun p => p.g == p0.g && p.sid == p0.sid

/-- packetsToSysEx (R265): the event of an unpacked packet sequence. The message type of later packets is not tested
(log entry 8, DEDUCED, unsafe). -/
def joinPackets {α : Type} (build : List α → Byte → U4 → Except Err Event) (ps : List (Packet α)) :
    Except Err Event :=
  match ps with
  | [] => .error (.malformed .sequence)
  | p0 :: rest =>
    if sameStream p0 rest && statusesOk (p0 :: rest) then build ((p0 :: rest).flatMap (·.bytes)) p0.sid p0.g
    else .error (.malformed .sequence)

/-- A whole MT 0x3 message (R250, R265). -/
def decSysEx7 (r : Registry) (words : List Word) : Except Err Event :=
  match pairs words with
  | none => .error (.malformed .length)
  | some ps =>
    match unpackAll unpack7 ps with
    | .error e => .error e
    | .ok qs => joinPackets (fun body _ g => sysEx7FromBody r body g) qs

/-- A whole MT 0x5 message (R250, R265). -/
def decSysEx8 (r : Registry) (words : List Word) : Except Err Event :=
  match quads words with
  | none => .error (.malformed .length)
  | some ps =>
    match unpackAll unpack8 ps with
    | .error e => .error e
    | .ok qs => joinPackets (sysEx8FromBody r) qs

/-! ### Decoder: dispatch -/

/-- DEC_UMP's decoding of one message (R250), the checks in the rule's order (R402). -/
def decUmp (p : Params) (words : List Word) : Except Err Event :=
  match words with
  | [] => .error .empty
  | w0 :: ws =>
    let mt := mtOf w0
    if mt.toNat ≥ 0x6 then .error (.malformed .reservedMT)
    else if mt.toNat = 0x3 then decSysEx7 p.registry (w0 :: ws)
    else if mt.toNat = 0x5 then decSysEx8 p.registry (w0 :: ws)
    else if (w0 :: ws).length ≠ wordsOf mt then .error (.malformed .length)
    else
      match mt.toNat with
      | 0x0 => decUtility (stOf w0) (lo16 w0) (grpOf w0)
      | 0x1 => decSystem (byte1 w0) (byte2 w0) (byte3 w0) (grpOf w0)
      | 0x2 => decVoice1 p.noteOnV0AsNoteOff (byte1 w0) (byte2 w0) (byte3 w0) (grpOf w0)
      | _ => decVoice2 w0 (ws.headD 0)

/-- ENC_UMP (R230). -/
def execEncUmp (e : Event) (P : Protocol) (s : State) : Step :=
  .next (s.guarded (admitsEvent s.params.registry e) (s.finish .words (encUmp e P)))

/-- DEC_UMP (R250). -/
def execDecUmp (words : List Word) (s : State) : Step :=
  .next (s.finish .event (decUmp s.params words))

end Sys2Proof.Machine
end

