-- ==== Sys2Proof/Machine/UmpRows.lean ====
section
/-! DEFINITION. The UMP rows of the opcode table: one incoming UMP message, which the host hands to DEC_UMP (R454). Each
meaning is the decode rule of its own row; the outcome is DEC_UMP's, an event or an error (log entry 3). At
the end stands what a frame that is no row of the table does. -/

namespace Sys2Proof.Machine

/-- DEC_UMP ends with the event or the error of the message's decode rule (R250). -/
def State.decoded (s : State) (r : Except Err Event) : State := s.finish .event r

/-- MT 0x0 status 0x0 (R251). -/
def execUmpNoOp (g : U4) (s : State) : Step := .next (s.decoded (decUtility 0x0 0 g))

/-- MT 0x0 status 0x1 (R251). -/
def execUmpJrClock (g : U4) (time : U16) (s : State) : Step := .next (s.decoded (decUtility 0x1 time g))

/-- MT 0x0 status 0x2 (R251). -/
def execUmpJrTimestamp (g : U4) (time : U16) (s : State) : Step := .next (s.decoded (decUtility 0x2 time g))

/-- MT 0x1 status F1 (R252, R208). -/
def execUmpMt1TimecodeQuarterFrame (g : U4) (d1 : Byte) (s : State) : Step :=
  .next (s.decoded (decSystem 0xF1 d1 0 g))

/-- MT 0x1 status F2 (R252, R209). -/
def execUmpMt1SongPositionPointer (g : U4) (d1 d2 : Byte) (s : State) : Step :=
  .next (s.decoded (decSystem 0xF2 d1 d2 g))

/-- MT 0x1 status F3 (R252, R210). -/
def execUmpMt1SongSelect (g : U4) (d1 : Byte) (s : State) : Step := .next (s.decoded (decSystem 0xF3 d1 0 g))

/-- MT 0x1 status F6 (R252, R211). -/
def execUmpMt1TuneRequest (g : U4) (s : State) : Step := .next (s.decoded (decSystem 0xF6 0 0 g))

/-- MT 0x1 status F8 (R252, R212). -/
def execUmpMt1TimingClock (g : U4) (s : State) : Step := .next (s.decoded (decSystem 0xF8 0 0 g))

/-- MT 0x1 status FA (R252, R212). -/
def execUmpMt1Start (g : U4) (s : State) : Step := .next (s.decoded (decSystem 0xFA 0 0 g))

/-- MT 0x1 status FB (R252, R212). -/
def execUmpMt1Continue (g : U4) (s : State) : Step := .next (s.decoded (decSystem 0xFB 0 0 g))

/-- MT 0x1 status FC (R252, R212). -/
def execUmpMt1Stop (g : U4) (s : State) : Step := .next (s.decoded (decSystem 0xFC 0 0 g))

/-- MT 0x1 status FE (R252, R212). -/
def execUmpMt1ActiveSensing (g : U4) (s : State) : Step := .next (s.decoded (decSystem 0xFE 0 0 g))

/-- MT 0x1 status FF (R252, R212). -/
def execUmpMt1SystemReset (g : U4) (s : State) : Step := .next (s.decoded (decSystem 0xFF 0 0 g))

/-- MT 0x2 nibble 0x8 (R253, R202). -/
def execUmpMt2NoteOff (g ch : U4) (d1 d2 : Byte) (s : State) : Step :=
  .next (s.decoded (decVoice1 s.params.noteOnV0AsNoteOff (chanStatus 0x8 ch) d1 d2 g))

/-- MT 0x2 nibble 0x9 (R253, R202). -/
def execUmpMt2NoteOn (g ch : U4) (d1 d2 : Byte) (s : State) : Step :=
  .next (s.decoded (decVoice1 s.params.noteOnV0AsNoteOff (chanStatus 0x9 ch) d1 d2 g))

/-- MT 0x2 nibble 0xA (R253, R203). -/
def execUmpMt2NotePressure (g ch : U4) (d1 d2 : Byte) (s : State) : Step :=
  .next (s.decoded (decVoice1 s.params.noteOnV0AsNoteOff (chanStatus 0xA ch) d1 d2 g))

/-- MT 0x2 nibble 0xB (R253, R204). -/
def execUmpMt2Cc (g ch : U4) (d1 d2 : Byte) (s : State) : Step :=
  .next (s.decoded (decVoice1 s.params.noteOnV0AsNoteOff (chanStatus 0xB ch) d1 d2 g))

/-- MT 0x2 nibble 0xC (R253, R205); `w0[7:0]` is ignored. -/
def execUmpMt2ProgramChange (g ch : U4) (d1 : Byte) (s : State) : Step :=
  .next (s.decoded (decVoice1 s.params.noteOnV0AsNoteOff (chanStatus 0xC ch) d1 0 g))

/-- MT 0x2 nibble 0xD (R253, R206); `w0[7:0]` is ignored. -/
def execUmpMt2Pressure (g ch : U4) (d1 : Byte) (s : State) : Step :=
  .next (s.decoded (decVoice1 s.params.noteOnV0AsNoteOff (chanStatus 0xD ch) d1 0 g))

/-- MT 0x2 nibble 0xE (R253, R207). -/
def execUmpMt2PitchBend (g ch : U4) (d1 d2 : Byte) (s : State) : Step :=
  .next (s.decoded (decVoice1 s.params.noteOnV0AsNoteOff (chanStatus 0xE ch) d1 d2 g))

/-- A message whose first packet is an MT 0x3 complete packet (R264, R265). -/
def execUmpSysEx7Complete (g n : U4) (b0 b1 : Byte) (w1 : Word) (rest : List Word) (s : State) : Step :=
  .next (s.decoded (decSysEx7 s.params.registry (sysEx7Words 0x0 g n b0 b1 w1 rest)))

/-- A message whose first packet is an MT 0x3 start packet (R264, R265). -/
def execUmpSysEx7Start (g n : U4) (b0 b1 : Byte) (w1 : Word) (rest : List Word) (s : State) : Step :=
  .next (s.decoded (decSysEx7 s.params.registry (sysEx7Words 0x1 g n b0 b1 w1 rest)))

/-- A message whose first packet is an MT 0x3 continue packet (R264, R265). -/
def execUmpSysEx7Continue (g n : U4) (b0 b1 : Byte) (w1 : Word) (rest : List Word) (s : State) : Step :=
  .next (s.decoded (decSysEx7 s.params.registry (sysEx7Words 0x2 g n b0 b1 w1 rest)))

/-- A message whose first packet is an MT 0x3 end packet (R264, R265). -/
def execUmpSysEx7End (g n : U4) (b0 b1 : Byte) (w1 : Word) (rest : List Word) (s : State) : Step :=
  .next (s.decoded (decSysEx7 s.params.registry (sysEx7Words 0x3 g n b0 b1 w1 rest)))

/-- MT 0x4 opcode 0x0 (R263). -/
def execUmpMt4NoteCCRegistered (g ch : U4) (note index : Byte) (value : Word) (s : State) : Step :=
  .next (s.decoded (decNoteCC note (.registered index) value ch g))

/-- MT 0x4 opcode 0x1 (R263). -/
def execUmpMt4NoteCCAssignable (g ch : U4) (note index : Byte) (value : Word) (s : State) : Step :=
  .next (s.decoded (decNoteCC note (.assignable index) value ch g))

/-- MT 0x4 opcode 0x2, recognised and not implemented (R268). -/
def execUmpMt4RegisteredController (_g _ch : U4) (s : State) : Step := .next (s.decoded (decUnsupportedOp 0x2))

/-- MT 0x4 opcode 0x3, recognised and not implemented (R268). -/
def execUmpMt4AssignableController (_g _ch : U4) (s : State) : Step := .next (s.decoded (decUnsupportedOp 0x3))

/-- MT 0x4 opcode 0x4, recognised and not implemented (R268). -/
def execUmpMt4RelativeRegisteredController (_g _ch : U4) (s : State) : Step :=
  .next (s.decoded (decUnsupportedOp 0x4))

/-- MT 0x4 opcode 0x5, recognised and not implemented (R268). -/
def execUmpMt4RelativeAssignableController (_g _ch : U4) (s : State) : Step :=
  .next (s.decoded (decUnsupportedOp 0x5))

/-- MT 0x4 opcode 0x6 (R262). -/
def execUmpMt4NotePitchBend (g ch : U4) (note : Byte) (value : Word) (s : State) : Step :=
  .next (s.decoded (decNotePitchBend note value ch g))

/-- MT 0x4 opcode 0x7 (R254, R269). -/
def execUmpMt4ReservedOp7 (_g _ch : U4) (s : State) : Step := .next (s.decoded (.error (.malformed .status)))

/-- MT 0x4 opcode 0x8 (R256). -/
def execUmpMt4NoteOff (g ch : U4) (note attrType : Byte) (velocity attrData : U16) (s : State) : Step :=
  .next (s.decoded (decNoteOff note attrType velocity attrData ch g))

/-- MT 0x4 opcode 0x9 (R256). -/
def execUmpMt4NoteOn (g ch : U4) (note attrType : Byte) (velocity attrData : U16) (s : State) : Step :=
  .next (s.decoded (decNoteOn note attrType velocity attrData ch g))

/-- MT 0x4 opcode 0xA (R257). -/
def execUmpMt4NotePressure (g ch : U4) (note : Byte) (amount : Word) (s : State) : Step :=
  .next (s.decoded (decNotePressure note amount ch g))

/-- MT 0x4 opcode 0xB (R258). -/
def execUmpMt4Cc (g ch : U4) (controller : Byte) (value : Word) (s : State) : Step :=
  .next (s.decoded (decCc controller value ch g))

/-- MT 0x4 opcode 0xC (R259). -/
def execUmpMt4ProgramChange (g ch : U4) (bankValid : Bool) (program bankMsb bankLsb : Byte) (s : State) : Step :=
  .next (s.decoded (decProgramChange bankValid program bankMsb bankLsb ch g))

/-- MT 0x4 opcode 0xD (R260). -/
def execUmpMt4Pressure (g ch : U4) (amount : Word) (s : State) : Step := .next (s.decoded (decPressure amount ch g))

/-- MT 0x4 opcode 0xE (R261). -/
def execUmpMt4PitchBend (g ch : U4) (value : Word) (s : State) : Step := .next (s.decoded (decPitchBend value ch g))

/-- MT 0x4 opcode 0xF, recognised and not implemented (R268). -/
def execUmpMt4PerNoteManagement (_g _ch : U4) (s : State) : Step := .next (s.decoded (decUnsupportedOp 0xF))

/-- A message whose first packet is an MT 0x5 complete packet (R264, R265). -/
def execUmpSysEx8Complete (g n : U4) (sid b0 : Byte) (w1 w2 w3 : Word) (rest : List Word) (s : State) : Step :=
  .next (s.decoded (decSysEx8 s.params.registry (sysEx8Words 0x0 g n sid b0 w1 w2 w3 rest)))

/-- A message whose first packet is an MT 0x5 start packet (R264, R265). -/
def execUmpSysEx8Start (g n : U4) (sid b0 : Byte) (w1 w2 w3 : Word) (rest : List Word) (s : State) : Step :=
  .next (s.decoded (decSysEx8 s.params.registry (sysEx8Words 0x1 g n sid b0 w1 w2 w3 rest)))

/-- A message whose first packet is an MT 0x5 continue packet (R264, R265). -/
def execUmpSysEx8Continue (g n : U4) (sid b0 : Byte) (w1 w2 w3 : Word) (rest : List Word) (s : State) : Step :=
  .next (s.decoded (decSysEx8 s.params.registry (sysEx8Words 0x2 g n sid b0 w1 w2 w3 rest)))

/-- A message whose first packet is an MT 0x5 end packet (R264, R265). -/
def execUmpSysEx8End (g n : U4) (sid b0 : Byte) (w1 w2 w3 : Word) (rest : List Word) (s : State) : Step :=
  .next (s.decoded (decSysEx8 s.params.registry (sysEx8Words 0x3 g n sid b0 w1 w2 w3 rest)))

/-- MT 0x5 status 0x8 (R264, R268). -/
def execUmpMixedDataHeader (_g : U4) (s : State) : Step := .next (s.decoded (.error (.unsupported .mixedData)))

/-- MT 0x5 status 0x9 (R264, R268). -/
def execUmpMixedDataPayload (_g : U4) (s : State) : Step := .next (s.decoded (.error (.unsupported .mixedData)))

/-- MT 0x6, reserved (R250, R269). -/
def execUmpReservedMT6 (_g : U4) (s : State) : Step := .next (s.decoded (.error (.malformed .reservedMT)))

/-- MT 0x7, reserved (R250, R269). -/
def execUmpReservedMT7 (_g : U4) (s : State) : Step := .next (s.decoded (.error (.malformed .reservedMT)))

/-- MT 0x8, reserved (R250, R269). -/
def execUmpReservedMT8 (_g : U4) (s : State) : Step := .next (s.decoded (.error (.malformed .reservedMT)))

/-- MT 0x9, reserved (R250, R269). -/
def execUmpReservedMT9 (_g : U4) (s : State) : Step := .next (s.decoded (.error (.malformed .reservedMT)))

/-- MT 0xA, reserved (R250, R269). -/
def execUmpReservedMTA (_g : U4) (s : State) : Step := .next (s.decoded (.error (.malformed .reservedMT)))

/-- MT 0xB, reserved (R250, R269). -/
def execUmpReservedMTB (_g : U4) (s : State) : Step := .next (s.decoded (.error (.malformed .reservedMT)))

/-- MT 0xC, reserved (R250, R269). -/
def execUmpReservedMTC (_g : U4) (s : State) : Step := .next (s.decoded (.error (.malformed .reservedMT)))

/-- MT 0xD, reserved (R250, R269). -/
def execUmpReservedMTD (_g : U4) (s : State) : Step := .next (s.decoded (.error (.malformed .reservedMT)))

/-- MT 0xE, reserved (R250, R269). -/
def execUmpReservedMTE (_g : U4) (s : State) : Step := .next (s.decoded (.error (.malformed .reservedMT)))

/-- MT 0xF, reserved (R250, R269). -/
def execUmpReservedMTF (_g : U4) (s : State) : Step := .next (s.decoded (.error (.malformed .reservedMT)))

/-- What a frame does that holds no instruction of the table. A command record is refused: with an operand outside its
type by R406; with an operation code outside R90, too few operands or values left over by the model's
choice, since R406 lists none of these (log entry 17, DESIGN CHOICE, unsafe). Arriving bytes are fed to
their context and arriving words are decoded, as the host does with any (R75, R454). -/
def undecoded (f : Frame) (s : State) : State :=
  match f with
  | .command _ => s.refuse
  | .midi1 c t bytes => feed c t bytes s
  | .ump words => s.decoded (decUmp s.params words)

end Sys2Proof.Machine
end

