-- ==== Sys2Proof/Machine/Values.lean ====
section
/-! DEFINITION. Value wrappers and the value scaler (spec 40_values.md), over exact integers and rationals. -/

namespace Sys2Proof.Machine

/-- `mid = 2^(N-1)` (R150). -/
def midOf (N : Nat) : Nat := 2 ^ (N - 1)
/-- `max = 2^N - 1` (R150). -/
def maxOf (N : Nat) : Nat := 2 ^ N - 1

/-- R140's construction. -/
def makeUint (N v : Nat) : Except Err Nat := if v > maxOf N then .error (.rangeError N v) else .ok v

/-- R150's map to `[-1, 1]`. -/
def toBipolar (v N : Nat) : Rat :=
  if v < midOf N then ((v : Rat) - midOf N) / midOf N else ((v : Rat) - midOf N) / ((maxOf N : Rat) - midOf N)

/-- R151's map from `[-1, 1]`. -/
def fromBipolar (x : Rat) (N : Nat) : Except Err Nat :=
  if x < -1 ∨ x > 1 then .error (.rangeError N x)
  else if x < 0 then .ok (roundQ ((midOf N : Rat) + x * midOf N)).toNat
  else .ok (roundQ ((midOf N : Rat) + x * ((maxOf N : Rat) - midOf N))).toNat

/-- R153's map to `[0, 1]`. -/
def toUnipolar (v N : Nat) : Rat := (v : Rat) / maxOf N

/-- R154's map from `[0, 1]`. -/
def fromUnipolar (x : Rat) (N : Nat) : Except Err Nat :=
  if x < 0 ∨ x > 1 then .error (.rangeError N x) else .ok (roundQ (x * maxOf N)).toNat

/-- MAKE_UINT (R140). -/
def execMakeUint (N v : Nat) (s : State) : Step :=
  .next (s.guarded (isUintWidth N) (s.finish (.uint N) (makeUint N v)))

/-- SCALE (R141): the result is in `U_M`. -/
def execScale (v N M : Nat) (s : State) : Step :=
  .next (s.guarded (isScaleWidth N && isScaleWidth M && isUint v N) (s.record (.uint M (scaleNat v N M))))

/-- TO_BIPOLAR (R150). -/
def execToBipolar (v N : Nat) (s : State) : Step :=
  .next (s.guarded (isScaleWidth N && isUint v N) (s.record (.rational (toBipolar v N))))

/-- FROM_BIPOLAR (R151). -/
def execFromBipolar (x : Rat) (N : Nat) (s : State) : Step :=
  .next (s.guarded (isScaleWidth N) (s.finish (.uint N) (fromBipolar x N)))

/-- TO_UNIPOLAR (R153). -/
def execToUnipolar (v N : Nat) (s : State) : Step :=
  .next (s.guarded (isScaleWidth N && isUint v N) (s.record (.rational (toUnipolar v N))))

/-- FROM_UNIPOLAR (R154). -/
def execFromUnipolar (x : Rat) (N : Nat) (s : State) : Step :=
  .next (s.guarded (isScaleWidth N) (s.finish (.uint N) (fromUnipolar x N)))

end Sys2Proof.Machine
end

