-- ==== Sys2Proof/Machine/Dispatch.lean ====
section
/-! DEFINITION. One arm for each instruction of the opcode table: a direct call of its meaning. -/

namespace Sys2Proof.Machine

def exec (i : Instr) (s : State) : Host.Outcome State Fault Refusal :=
  match i with
  | .reset ctx => Sys2Proof.Machine.execReset ctx s
  | .feed ctx t bytes => Sys2Proof.Machine.execFeed ctx t bytes s
  | .encM1 e => Sys2Proof.Machine.execEncM1 e s
  | .encUmp e P => Sys2Proof.Machine.execEncUmp e P s
  | .decM1 bytes g => Sys2Proof.Machine.execDecM1 bytes g s
  | .decUmp words => Sys2Proof.Machine.execDecUmp words s
  | .makeUint N v => Sys2Proof.Machine.execMakeUint N v s
  | .scale v N M => Sys2Proof.Machine.execScale v N M s
  | .toBipolar v N => Sys2Proof.Machine.execToBipolar v N s
  | .fromBipolar x N => Sys2Proof.Machine.execFromBipolar x N s
  | .toUnipolar v N => Sys2Proof.Machine.execToUnipolar v N s
  | .fromUnipolar x N => Sys2Proof.Machine.execFromUnipolar x N s
  | .sysexId bytes width => Sys2Proof.Machine.execSysexId bytes width s
  | .classify e => Sys2Proof.Machine.execClassify e s
  | .filter f es => Sys2Proof.Machine.execFilter f es s
  | .m1NoteOff ctx t ch note velocity => Sys2Proof.Machine.execM1NoteOff ctx t ch note velocity s
  | .m1NoteOn ctx t ch note velocity => Sys2Proof.Machine.execM1NoteOn ctx t ch note velocity s
  | .m1NotePressure ctx t ch note amount => Sys2Proof.Machine.execM1NotePressure ctx t ch note amount s
  | .m1Cc ctx t ch controller value => Sys2Proof.Machine.execM1Cc ctx t ch controller value s
  | .m1ProgramChange ctx t ch program => Sys2Proof.Machine.execM1ProgramChange ctx t ch program s
  | .m1Pressure ctx t ch amount => Sys2Proof.Machine.execM1Pressure ctx t ch amount s
  | .m1PitchBend ctx t ch lsb msb => Sys2Proof.Machine.execM1PitchBend ctx t ch lsb msb s
  | .m1SysExStart ctx t body => Sys2Proof.Machine.execM1SysExStart ctx t body s
  | .m1TimecodeQuarterFrame ctx t dataByte => Sys2Proof.Machine.execM1TimecodeQuarterFrame ctx t dataByte s
  | .m1SongPositionPointer ctx t lsb msb => Sys2Proof.Machine.execM1SongPositionPointer ctx t lsb msb s
  | .m1SongSelect ctx t number => Sys2Proof.Machine.execM1SongSelect ctx t number s
  | .m1ReservedF4 ctx t => Sys2Proof.Machine.execM1ReservedF4 ctx t s
  | .m1ReservedF5 ctx t => Sys2Proof.Machine.execM1ReservedF5 ctx t s
  | .m1TuneRequest ctx t => Sys2Proof.Machine.execM1TuneRequest ctx t s
  | .m1Eox ctx t => Sys2Proof.Machine.execM1Eox ctx t s
  | .m1TimingClock ctx t => Sys2Proof.Machine.execM1TimingClock ctx t s
  | .m1ReservedF9 ctx t => Sys2Proof.Machine.execM1ReservedF9 ctx t s
  | .m1Start ctx t => Sys2Proof.Machine.execM1Start ctx t s
  | .m1Continue ctx t => Sys2Proof.Machine.execM1Continue ctx t s
  | .m1Stop ctx t => Sys2Proof.Machine.execM1Stop ctx t s
  | .m1ReservedFD ctx t => Sys2Proof.Machine.execM1ReservedFD ctx t s
  | .m1ActiveSensing ctx t => Sys2Proof.Machine.execM1ActiveSensing ctx t s
  | .m1SystemReset ctx t => Sys2Proof.Machine.execM1SystemReset ctx t s
  | .m1DataByte ctx t value => Sys2Proof.Machine.execM1DataByte ctx t value s
  | .umpNoOp g => Sys2Proof.Machine.execUmpNoOp g s
  | .umpJrClock g time => Sys2Proof.Machine.execUmpJrClock g time s
  | .umpJrTimestamp g time => Sys2Proof.Machine.execUmpJrTimestamp g time s
  | .umpMt1TimecodeQuarterFrame g d1 => Sys2Proof.Machine.execUmpMt1TimecodeQuarterFrame g d1 s
  | .umpMt1SongPositionPointer g d1 d2 => Sys2Proof.Machine.execUmpMt1SongPositionPointer g d1 d2 s
  | .umpMt1SongSelect g d1 => Sys2Proof.Machine.execUmpMt1SongSelect g d1 s
  | .umpMt1TuneRequest g => Sys2Proof.Machine.execUmpMt1TuneRequest g s
  | .umpMt1TimingClock g => Sys2Proof.Machine.execUmpMt1TimingClock g s
  | .umpMt1Start g => Sys2Proof.Machine.execUmpMt1Start g s
  | .umpMt1Continue g => Sys2Proof.Machine.execUmpMt1Continue g s
  | .umpMt1Stop g => Sys2Proof.Machine.execUmpMt1Stop g s
  | .umpMt1ActiveSensing g => Sys2Proof.Machine.execUmpMt1ActiveSensing g s
  | .umpMt1SystemReset g => Sys2Proof.Machine.execUmpMt1SystemReset g s
  | .umpMt2NoteOff g ch d1 d2 => Sys2Proof.Machine.execUmpMt2NoteOff g ch d1 d2 s
  | .umpMt2NoteOn g ch d1 d2 => Sys2Proof.Machine.execUmpMt2NoteOn g ch d1 d2 s
  | .umpMt2NotePressure g ch d1 d2 => Sys2Proof.Machine.execUmpMt2NotePressure g ch d1 d2 s
  | .umpMt2Cc g ch d1 d2 => Sys2Proof.Machine.execUmpMt2Cc g ch d1 d2 s
  | .umpMt2ProgramChange g ch d1 => Sys2Proof.Machine.execUmpMt2ProgramChange g ch d1 s
  | .umpMt2Pressure g ch d1 => Sys2Proof.Machine.execUmpMt2Pressure g ch d1 s
  | .umpMt2PitchBend g ch d1 d2 => Sys2Proof.Machine.execUmpMt2PitchBend g ch d1 d2 s
  | .umpSysEx7Complete g n b0 b1 w1 rest => Sys2Proof.Machine.execUmpSysEx7Complete g n b0 b1 w1 rest s
  | .umpSysEx7Start g n b0 b1 w1 rest => Sys2Proof.Machine.execUmpSysEx7Start g n b0 b1 w1 rest s
  | .umpSysEx7Continue g n b0 b1 w1 rest => Sys2Proof.Machine.execUmpSysEx7Continue g n b0 b1 w1 rest s
  | .umpSysEx7End g n b0 b1 w1 rest => Sys2Proof.Machine.execUmpSysEx7End g n b0 b1 w1 rest s
  | .umpMt4NoteCCRegistered g ch note index value => Sys2Proof.Machine.execUmpMt4NoteCCRegistered g ch note index value s
  | .umpMt4NoteCCAssignable g ch note index value => Sys2Proof.Machine.execUmpMt4NoteCCAssignable g ch note index value s
  | .umpMt4RegisteredController g ch => Sys2Proof.Machine.execUmpMt4RegisteredController g ch s
  | .umpMt4AssignableController g ch => Sys2Proof.Machine.execUmpMt4AssignableController g ch s
  | .umpMt4RelativeRegisteredController g ch => Sys2Proof.Machine.execUmpMt4RelativeRegisteredController g ch s
  | .umpMt4RelativeAssignableController g ch => Sys2Proof.Machine.execUmpMt4RelativeAssignableController g ch s
  | .umpMt4NotePitchBend g ch note value => Sys2Proof.Machine.execUmpMt4NotePitchBend g ch note value s
  | .umpMt4ReservedOp7 g ch => Sys2Proof.Machine.execUmpMt4ReservedOp7 g ch s
  | .umpMt4NoteOff g ch note attrType velocity attrData => Sys2Proof.Machine.execUmpMt4NoteOff g ch note attrType velocity attrData s
  | .umpMt4NoteOn g ch note attrType velocity attrData => Sys2Proof.Machine.execUmpMt4NoteOn g ch note attrType velocity attrData s
  | .umpMt4NotePressure g ch note amount => Sys2Proof.Machine.execUmpMt4NotePressure g ch note amount s
  | .umpMt4Cc g ch controller value => Sys2Proof.Machine.execUmpMt4Cc g ch controller value s
  | .umpMt4ProgramChange g ch bankValid program bankMsb bankLsb => Sys2Proof.Machine.execUmpMt4ProgramChange g ch bankValid program bankMsb bankLsb s
  | .umpMt4Pressure g ch amount => Sys2Proof.Machine.execUmpMt4Pressure g ch amount s
  | .umpMt4PitchBend g ch value => Sys2Proof.Machine.execUmpMt4PitchBend g ch value s
  | .umpMt4PerNoteManagement g ch => Sys2Proof.Machine.execUmpMt4PerNoteManagement g ch s
  | .umpSysEx8Complete g n sid b0 w1 w2 w3 rest => Sys2Proof.Machine.execUmpSysEx8Complete g n sid b0 w1 w2 w3 rest s
  | .umpSysEx8Start g n sid b0 w1 w2 w3 rest => Sys2Proof.Machine.execUmpSysEx8Start g n sid b0 w1 w2 w3 rest s
  | .umpSysEx8Continue g n sid b0 w1 w2 w3 rest => Sys2Proof.Machine.execUmpSysEx8Continue g n sid b0 w1 w2 w3 rest s
  | .umpSysEx8End g n sid b0 w1 w2 w3 rest => Sys2Proof.Machine.execUmpSysEx8End g n sid b0 w1 w2 w3 rest s
  | .umpMixedDataHeader g => Sys2Proof.Machine.execUmpMixedDataHeader g s
  | .umpMixedDataPayload g => Sys2Proof.Machine.execUmpMixedDataPayload g s
  | .umpReservedMT6 g => Sys2Proof.Machine.execUmpReservedMT6 g s
  | .umpReservedMT7 g => Sys2Proof.Machine.execUmpReservedMT7 g s
  | .umpReservedMT8 g => Sys2Proof.Machine.execUmpReservedMT8 g s
  | .umpReservedMT9 g => Sys2Proof.Machine.execUmpReservedMT9 g s
  | .umpReservedMTA g => Sys2Proof.Machine.execUmpReservedMTA g s
  | .umpReservedMTB g => Sys2Proof.Machine.execUmpReservedMTB g s
  | .umpReservedMTC g => Sys2Proof.Machine.execUmpReservedMTC g s
  | .umpReservedMTD g => Sys2Proof.Machine.execUmpReservedMTD g s
  | .umpReservedMTE g => Sys2Proof.Machine.execUmpReservedMTE g s
  | .umpReservedMTF g => Sys2Proof.Machine.execUmpReservedMTF g s

end Sys2Proof.Machine
end

