-- ==== Sys2Proof/Machine/Step.lean ====
section
/-! DEFINITION. One step of the block: it takes the oldest transaction off its port and executes it whole (R5, R76, R77).
Nothing at the port is nothing to do: the block waits for the host and no state changes (log entry 5). -/

namespace Sys2Proof.Machine

/-- One step. -/
def step (s : State) : Host.Outcome State Fault Refusal :=
  match s.port with
  | [] => .next s
  | f :: rest =>
    match decode f with
    | .ok i => exec i { s with port := rest }
    | .error _ => .next (undecoded f { s with port := rest })

/-- The state with the instruction of a table word at the head of its port, so that the next step executes it. -/
def State.withFetchWord (s : State) (nbits w : Nat) : State := { s with port := tableFrame nbits w :: s.port }

end Sys2Proof.Machine
end

