-- ==== Sys2Proof/Safety.lean ====
section
/-! DEFINITION. What statements about the machine are written with: the invariants of a parser context and of a state
(R42, R43), when a result is of its type (R23), which events an encoding carries (R39, R40), and the parts
of a next state that several statements name. -/

namespace Sys2Proof.Machine

/-! ### Invariants -/

/-- A channel voice status byte (R12): `0x80..0xEF`. -/
def isChanStatus (b : Byte) : Bool := decide (0x80 ≤ b.toNat ∧ b.toNat ≤ 0xEF)

/-- The statuses that collect data bytes (R42): channel voice, `F1`, `F2` or `F3`. -/
def isPendStatus (b : Byte) : Bool := isChanStatus b || b == 0xF1 || b == 0xF2 || b == 0xF3

/-- `len(acc) <= SYSEX_MAX` (R42). -/
def withinMax (max : Option Nat) (n : Nat) : Prop := ∀ m, max = some m → n ≤ m

/-- The types of R42 and the invariants I1 to I4 of R43, for one context of a block with `SYSEX_MAX = max`. -/
structure Ctx.Inv (max : Option Nat) (S : Ctx) : Prop where
  /-- R42: `rs` is in `0x80..0xEF`. -/
  rsRange : ∀ b, S.rs = some b → isChanStatus b = true
  /-- R42: `pend` is in `0x80..0xEF` or in `F1`, `F2`, `F3`. -/
  pendRange : ∀ b, S.pend = some b → isPendStatus b = true
  /-- R42: `len(pd) < need(pend)`. With nothing pending `need(None)` is 0 and no list is shorter, so I3 stands there
  (log entry 9, DEDUCED, safe). -/
  pdShort : ∃ n, needOf S.pend = some n ∧ (S.pd.length < n ∨ S.pend = none)
  /-- R42: `len(acc) <= SYSEX_MAX`. -/
  accShort : withinMax max S.acc.length
  /-- R42: `ovf` is always false when `SYSEX_MAX` is unbounded. -/
  ovfBounded : max = none → S.ovf = false
  /-- I1. -/
  sxNoPend : S.sx = true → S.pend = none
  /-- I2. -/
  pendIsRunning : ∀ b, S.pend = some b → b.toNat ≤ 0xEF → S.rs = some b
  /-- I3. -/
  noPendNoData : S.pend = none → S.pd = []
  /-- I4. -/
  noSxNoAcc : S.sx = false → S.acc = [] ∧ S.ovf = false

/-- Every context satisfies R42 and R43, and the registry satisfies R293's constraint. -/
structure State.Inv (s : State) : Prop where
  registryOk : s.params.registry.ok = true
  ctxsInv : ∀ S ∈ s.ctxs, S.Inv s.params.sysexMax

/-- A parser item carries only values of their types (R23, R31). -/
def itemTyped (r : Registry) : Item → Prop
  | .ev e => e.wf r = true
  | .er _ _ => True

/-- A result is of its operation's type (R23, R31): a `U_N` fits its width and every event is a value of the event
model. -/
def resultTyped (r : Registry) : Result → Prop
  | .uint N v => v ≤ 2 ^ N - 1
  | .event e => e.wf r = true
  | .events l => ∀ e ∈ l, e.wf r = true
  | .items l => ∀ x ∈ l, itemTyped r x.2
  | .sysexId id _ => id.wf r = true
  | _ => True

/-- Every outcome of the run so far is of its type. -/
def State.OutcomesTyped (s : State) : Prop := ∀ x ∈ s.outcomes, resultTyped s.params.registry x

/-! ### What an instruction touches -/

/-- The parser context an instruction names (R90: only RESET and FEED use one; a MIDI 1.0 row is a FEED). -/
def contextOf : Instr → Option Nat
  | .reset c => some c
  | .feed c _ _ => some c
  | .m1NoteOff c _ _ _ _ => some c
  | .m1NoteOn c _ _ _ _ => some c
  | .m1NotePressure c _ _ _ _ => some c
  | .m1Cc c _ _ _ _ => some c
  | .m1ProgramChange c _ _ _ => some c
  | .m1Pressure c _ _ _ => some c
  | .m1PitchBend c _ _ _ _ => some c
  | .m1SysExStart c _ _ => some c
  | .m1TimecodeQuarterFrame c _ _ => some c
  | .m1SongPositionPointer c _ _ _ => some c
  | .m1SongSelect c _ _ => some c
  | .m1ReservedF4 c _ => some c
  | .m1ReservedF5 c _ => some c
  | .m1TuneRequest c _ => some c
  | .m1Eox c _ => some c
  | .m1TimingClock c _ => some c
  | .m1ReservedF9 c _ => some c
  | .m1Start c _ => some c
  | .m1Continue c _ => some c
  | .m1Stop c _ => some c
  | .m1ReservedFD c _ => some c
  | .m1ActiveSensing c _ => some c
  | .m1SystemReset c _ => some c
  | .m1DataByte c _ _ => some c
  | _ => none

/-- The next state of an operation that ends with outcome `r` and changes nothing else. -/
def State.ended (s : State) (r : Result) : State := { s with outcomes := s.outcomes ++ [r] }

/-- The next state of an operation on context `c` that leaves it as `S`, emits `its` at time `t` and changes nothing
else. -/
def State.emitted (s : State) (c : Nat) (S : Ctx) (t : U64) (its : List Item) : State :=
  { s with ctxs := s.ctxs.set c S, outcomes := s.outcomes ++ [.items (its.map fun it => (t, it))] }

/-- The item that a status byte other than real-time and `F7` makes of what is partial in a context (R328): an open
SysEx is aborted, a pending message is incomplete. -/
def cutShort (S : Ctx) : List Item :=
  if S.sx then [.er .sysexAbort (S.acc.map U7.byte)]
  else
    match S.pend with
    | some p => [.er .incomplete (p :: S.pd.map U7.byte)]
    | none => []

/-- A context with nothing partial in it, and the given running status. -/
def quiet (rs : Option Byte) : Ctx := { Ctx.reset with rs := rs }

/-! ### What the encodings carry -/

/-- Every dual-resolution field `x` of the event satisfies `hi(m1(lo(x))) = hi(x)` (R40). -/
def lowExact : Event → Bool
  | .noteOn _ v _ _ _ => hi (.m1 (lo v) : V7_16) == hi v
  | .noteOff _ v _ _ _ => hi (.m1 (lo v) : V7_16) == hi v
  | .notePressure _ v _ _ => hi (.m1 (lo v) : V7_32) == hi v
  | .cc _ v _ _ => hi (.m1 (lo v) : V7_32) == hi v
  | .pressure v _ _ => hi (.m1 (lo v) : V7_32) == hi v
  | .pitchBend v _ _ => hi (.m1 (lo v) : V14_32) == hi v
  | _ => true

/-- R40's conditions on `attr` and `bank`. -/
def plainFields : Event → Bool
  | .noteOn _ _ a _ _ => a == Attr.none
  | .noteOff _ _ a _ _ => a == Attr.none
  | .programChange _ b _ _ => b == none
  | _ => true

/-- The MIDI 1.0 bytes column of R39. -/
def inMidi1 : Event → Bool
  | .notePitchBend _ _ _ _ => false
  | .noteCC _ _ _ _ _ => false
  | .sysEx8 _ _ _ _ => false
  | .noOp _ => false
  | .jrClock _ _ => false
  | .jrTimestamp _ _ => false
  | _ => true

/-- The UMP protocol M1 column of R39; under M2 every variant is carried. -/
def inUmp : Protocol → Event → Bool
  | .M1, .notePitchBend _ _ _ _ => false
  | .M1, .noteCC _ _ _ _ _ => false
  | _, _ => true

/-- Representable in MIDI 1.0 (R40). -/
def representableM1 (e : Event) : Bool := inMidi1 e && plainFields e && lowExact e

/-- Representable in UMP protocol `P` (R40). Its conditions on the length of a SysEx body hold of every event. -/
def representableUmp (P : Protocol) (e : Event) : Bool :=
  inUmp P e && (P == .M2 || (plainFields e && lowExact e))

/-- The group of an event (R32). -/
def groupOf : Event → U4
  | .noteOn _ _ _ _ g => g
  | .noteOff _ _ _ _ g => g
  | .notePressure _ _ _ g => g
  | .cc _ _ _ g => g
  | .programChange _ _ _ g => g
  | .pressure _ _ g => g
  | .pitchBend _ _ g => g
  | .notePitchBend _ _ _ g => g
  | .noteCC _ _ _ _ g => g
  | .timecodeQuarterFrame _ g => g
  | .songPositionPointer _ g => g
  | .songSelect _ g => g
  | .tuneRequest g => g
  | .timingClock g => g
  | .start g => g
  | .stop g => g
  | .continue_ g => g
  | .activeSensing g => g
  | .systemReset g => g
  | .sysEx7 _ _ g => g
  | .sysEx8 _ _ _ g => g
  | .noOp g => g
  | .jrClock _ g => g
  | .jrTimestamp _ g => g

/-! ### Whole programs and whole messages -/

/-- A program's operations issued in order (R453). -/
def execAll : List Instr → State → Step
  | [], s => .next s
  | i :: is, s =>
    match exec i s with
    | .next t => execAll is t
    | .fault r => .fault r
    | .refused r => .refused r

/-- The error kinds an operation may end with (R90's column, R400); a UMP row is a non-empty DEC_UMP, and FEED, RESET
and the MIDI 1.0 rows end with none. -/
def errorKinds : Instr → List ErrKind
  | .encM1 _ => [.unsupported]
  | .encUmp _ _ => [.unsupported]
  | .decM1 _ _ => [.empty, .malformed]
  | .decUmp _ => [.empty, .malformed, .unsupported]
  | .makeUint _ _ => [.rangeError]
  | .scale _ _ _ => []
  | .toBipolar _ _ => []
  | .fromBipolar _ _ => [.rangeError]
  | .toUnipolar _ _ => []
  | .fromUnipolar _ _ => [.rangeError]
  | .sysexId _ _ => [.malformed]
  | .classify _ => []
  | .filter _ _ => []
  | i => if (contextOf i).isSome then [] else [.malformed, .unsupported]

/-- `field << pos` in a word (R155). -/
def field {n : Nat} (v : BitVec n) (pos : Nat) : Word := v.setWidth 32 <<< pos

/-- `hdr(mt, g)` of 42_ump_codec.md. -/
def hdr (mt g : U4) : Word := field mt 28 ||| field g 24

/-- The status of packet `j` of `m` (R242): complete, start, continue or end. -/
def statusOf (j m : Nat) : Word :=
  if m = 1 then 0x0 else if j = 0 then 0x1 else if j = m - 1 then 0x3 else 0x2

/-- `n` divided by `k`, rounded up. -/
def ceilDiv (n k : Nat) : Nat := (n + (k - 1)) / k

/-- Byte `k` of a body, 0 where the body has none (R242, R243), at `pos` of a word. -/
def bodyField (body : List Byte) (k pos : Nat) : Word := field (body.getD k 0) pos

/-- The fields of an MT 0x3 packet after its status: count, `B0`, `B1` and word 1 (R104). -/
structure Pack7 where
  n : U4
  b0 : Byte
  b1 : Byte
  w1 : Word
  deriving DecidableEq, Repr

/-- The bytes of a packet that its count takes in (R104). -/
def Pack7.body (p : Pack7) : List Byte :=
  [p.b0, p.b1, byte0 p.w1, byte1 p.w1, byte2 p.w1, byte3 p.w1].take p.n.toNat

/-- The words of a packet of group `g` and status `st` (R104). -/
def Pack7.words (g st : U4) (p : Pack7) : List Word := [packWord 0x3 g st p.n p.b0 p.b1, p.w1]

/-- The fields of an MT 0x5 packet after its status and stream ID: count, `B0` and words 1 to 3 (R106). -/
structure Pack8 where
  n : U4
  b0 : Byte
  w1 : Word
  w2 : Word
  w3 : Word
  deriving DecidableEq, Repr

/-- The bytes of a packet that its count takes in; the count takes in the stream ID too (R106). -/
def Pack8.body (p : Pack8) : List Byte :=
  [p.b0, byte0 p.w1, byte1 p.w1, byte2 p.w1, byte3 p.w1, byte0 p.w2, byte1 p.w2, byte2 p.w2, byte3 p.w2,
    byte0 p.w3, byte1 p.w3, byte2 p.w3, byte3 p.w3].take (p.n.toNat - 1)

/-- The words of a packet of group `g`, status `st` and stream ID `sid` (R106). -/
def Pack8.words (g st : U4) (sid : Byte) (p : Pack8) : List Word :=
  [packWord 0x5 g st p.n sid p.b0, p.w1, p.w2, p.w3]

/-- A count that R104 allows. -/
abbrev Pack7.counted (p : Pack7) : Prop := p.n.toNat ≤ 6

/-- A count that R106 allows. -/
abbrev Pack8.counted (p : Pack8) : Prop := 1 ≤ p.n.toNat ∧ p.n.toNat ≤ 14

/-- The outcome of building an event. -/
def eventOr : Except Err Event → Result
  | .ok e => .event e
  | .error e => .err e

/-- The event unless one of the bytes is a status byte, which is `Malformed(DATA7)` (R108). -/
def dataOr (bs : List Byte) (e : Event) : Result := if bs.any isStatus then .err (.malformed .data7) else .event e

/-! ### The parser's events -/

/-- Every dual-resolution field is `m1` and `attr` is `(0, 0)` (R213, R323). -/
def atLowResolution : Event → Bool
  | .noteOn _ (.m1 _) a _ _ => a == Attr.none
  | .noteOff _ (.m1 _) a _ _ => a == Attr.none
  | .notePressure _ (.m1 _) _ _ => true
  | .cc _ (.m1 _) _ _ => true
  | .pressure (.m1 _) _ _ => true
  | .pitchBend (.m1 _) _ _ => true
  | .noteOn _ (.m2 _) _ _ _ => false
  | .noteOff _ (.m2 _) _ _ _ => false
  | .notePressure _ (.m2 _) _ _ => false
  | .cc _ (.m2 _) _ _ => false
  | .pressure (.m2 _) _ _ => false
  | .pitchBend (.m2 _) _ _ => false
  | _ => true

/-- The body bytes an accumulator of capacity `max` keeps (R333). -/
def keptBody (max : Option Nat) (body : List U7) : List U7 :=
  match max with
  | none => body
  | some m => body.take m

/-- At least one body byte is dropped (R333). -/
def bodyDropped (max : Option Nat) (body : List U7) : Bool :=
  match max with
  | none => false
  | some m => decide (m < body.length)

/-- A context with a SysEx open: its body so far and whether a byte was dropped. -/
def inSysEx (rs : Option Byte) (acc : List U7) (ovf : Bool) : Ctx :=
  { Ctx.reset with rs := rs, sx := true, acc := acc, ovf := ovf }

/-- Every byte after `s` that its message takes (R96) is in `d`. -/
abbrev isComplete (s : Byte) (d : List U7) : Prop := need s = some d.length

end Sys2Proof.Machine
end

