-- ==== Sys2Proof/Certificates/Slice0/Obligations.lean ====
section
/-! DEFINITION. The statements for the provers. `s.ended r` is the whole next state of an operation that ends with
outcome `r` and changes nothing else, and `s.emitted c S t its` that of one which also leaves context `c` as
`S`: both say the frame. Each docstring names the rules of spec/ that its statement rests on. -/

section
open Sys2Proof Sys2Proof.Machine

/-! ### Decoding, encoding and the step -/

/-- Decode and encode agree on every instruction, with every operand (R90, R95, R99 to R109). The command records are
the model's own form (log entry 4). -/
def Obligations.DecodeInvertsEncode : Prop := ∀ i : Instr, decode (encode i) = .ok i

/-- Words written out from the tables of 30_encoding.md decode to their rows. The command records are the model's own
form (log entry 4). That `F0` with its body bytes is one SysEx start row and that the MT 0x3 start row carries the
words of the later packets is the model's reading of the table (log entry 3). -/
def Obligations.WordsOfTheTableDecodeToTheirRows : Prop :=
  decode (.midi1 0 7 [0x93, 0x3C, 0x64]) = .ok (.m1NoteOn 0 7 3 60 100)
    ∧ decode (.midi1 2 7 [0xE5, 0x01, 0x02]) = .ok (.m1PitchBend 2 7 5 1 2)
    ∧ decode (.midi1 0 7 [0xF2, 0x48, 0x01]) = .ok (.m1SongPositionPointer 0 7 0x48 1)
    ∧ decode (.midi1 0 7 [0xF0, 0x01, 0x02]) = .ok (.m1SysExStart 0 7 [1, 2])
    ∧ decode (.midi1 0 7 [0x40]) = .ok (.m1DataByte 0 7 0x40)
    ∧ decode (.ump [0x00201234]) = .ok (.umpJrTimestamp 0 0x1234)
    ∧ decode (.ump [0x13F24801]) = .ok (.umpMt1SongPositionPointer 3 0x48 0x01)
    ∧ decode (.ump [0x21B00764]) = .ok (.umpMt2Cc 1 0 0x07 0x64)
    ∧ decode (.ump [0x31160102, 0x03040506, 0x31310700, 0])
        = .ok (.umpSysEx7Start 1 6 0x01 0x02 0x03040506 [0x31310700, 0])
    ∧ decode (.ump [0x42903C03, 0x12343C80]) = .ok (.umpMt4NoteOn 2 0 0x3C 0x03 0x1234 0x3C80)
    ∧ decode (.ump [0x50050000, 0x4180FF00, 0, 0]) = .ok (.umpSysEx8Complete 0 5 0 0 0x4180FF00 0 0 [])
    ∧ decode (.ump [0xD7000000, 0, 0, 0]) = .ok (.umpReservedMTD 7)
    ∧ decode (.command [0x21, 100, 7, 32]) = .ok (.scale 100 7 32)

/-- Bits of word 0 (R72, R99, R155): it is `hdr(mt, g)` with its other fields shifted into place, and its first byte is
`(MT << 4) | g`. -/
def Obligations.WordZeroIsItsShiftedFields : Prop :=
  (∀ (mt g st ch : U4) (a b : Byte),
      packWord mt g st ch a b = hdr mt g ||| field st 20 ||| field ch 16 ||| field a 8 ||| field b 0)
    ∧ ∀ w : Word, byte0 w = ((mtOf w).setWidth 8 <<< 4 ||| (grpOf w).setWidth 8)
        ∧ w = field (byte0 w) 24 ||| field (byte1 w) 16 ||| field (byte2 w) 8 ||| field (byte3 w) 0

/-- When what stands first at the port decodes to `i`, a step takes it off the port and is `exec i` (R5, R77). The port
as a list is the model's own form (log entry 5). -/
def Obligations.StepRunsTheDecodedInstruction : Prop :=
  ∀ (s : State) (f : Frame) (rest : List Frame) (i : Instr),
    s.port = f :: rest → decode f = .ok i → step s = exec i { s with port := rest }

/-- Whatever arrives is handed on (R454): a run of bytes, whichever row it is and whether or not it is one, steps as FEED of
its bytes, and a UMP message as DEC_UMP of its words. That a message steps as its row is the model's reading
of the table (log entry 3). -/
def Obligations.ArrivingMessagesAreFedOrDecoded : Prop :=
  (∀ (s : State) (c : Nat) (t : U64) (bs : List Byte) (rest : List Frame),
      s.port = .midi1 c t bs :: rest → step s = exec (.feed c t bs) { s with port := rest })
    ∧ ∀ (s : State) (ws : List Word) (rest : List Frame),
        s.port = .ump ws :: rest → step s = exec (.decUmp ws) { s with port := rest }

/-- A command record with an unknown operation, an operand outside its type or the wrong number of operands is refused,
and nothing else changes (R406; the record is the model's own form, log entry 4, and that an unknown operation
and a wrong number of operands are refused too is its choice, log entry 17). -/
def Obligations.RejectedCommandIsRefused : Prop :=
  ∀ (s : State) (cells : List Nat) (rest : List Frame) (r : DecodeError),
    s.port = .command cells :: rest → decode (.command cells) = .error r →
      step s = .next (State.ended { s with port := rest } .refused)

/-! ### The whole block -/

/-- No instruction, input or number of steps stops the block (R407). -/
def Obligations.NothingIsFatal : Prop :=
  (∀ (i : Instr) (s : State), ∃ t, exec i s = .next t)
    ∧ ∀ (n : Nat) (s : State), ∃ t, core.run n s = .next t

/-- An operation is refused, with no effect, exactly when its operands lie outside the domain of R90 (R406). That a
SysEx identifier outside the registry is such an operand is the model's reading (log entry 6). -/
def Obligations.RefusedExactlyOutsideTheDomain : Prop :=
  ∀ (i : Instr) (s : State),
    exec i s = .next (s.ended .refused) ↔ i.wf s.params.registry s.nCtx = false

/-- Every step keeps the types of R42 and the invariants I1 to I4 of R43 in every context, in whatever state that has
them. R42's bound `len(pd) < need(pend)` is read for a pending status; with nothing pending `need(None)` is 0
and I3 stands in its place, which is the model's reading (log entry 9). -/
def Obligations.StepKeepsContextInvariants : Prop :=
  ∀ s t : State, s.Inv → step s = .next t → t.Inv

/-- The block comes into being with every context as after RESET, nothing issued and nothing done, whatever its
parameters; RESET of any context then changes nothing (R42, R441). -/
def Obligations.InitialContextsAreReset : Prop :=
  ∀ (p : Params) (n : Nat),
    (State.init p n).nCtx = n
      ∧ (State.init p n).params = p ∧ (State.init p n).port = [] ∧ (State.init p n).outcomes = []
      ∧ (∀ c, c < n → (State.init p n).ctxs[c]? = some ⟨none, none, [], false, [], false⟩)
      ∧ ∀ c, c < n → exec (.reset c) (State.init p n) = .next ((State.init p n).ended .done)

/-- The state after reset has the invariants and is the block of the reference parameters (log entry 2). -/
def Obligations.ResetStateHasInvariants : Prop :=
  State.reset = State.init ⟨none, .struct, false, []⟩ 1 ∧ State.reset.Inv ∧ State.reset.OutcomesTyped

/-- Every outcome a step adds is of its operation's type: a `U_N` fits its width, and every event and identifier is a
value of the event model (R23, R31). That an event with an unregistered identifier is no such value is the
model's reading (log entry 6). -/
def Obligations.StepKeepsOutcomesTyped : Prop :=
  ∀ s t : State, s.OutcomesTyped → step s = .next t → t.OutcomesTyped

/-- A failed operation leaves the state as it was but for its error; only RESET and FEED change a context, and neither
fails (R403). -/
def Obligations.FailedOperationHasNoEffect : Prop :=
  (∀ (i : Instr) (s t : State) (e : Err),
      exec i s = .next t → t.outcomes = s.outcomes ++ [.err e] → t = s.ended (.err e))
    ∧ (∀ (i : Instr) (s t : State), exec i s = .next t → contextOf i = none → t.ctxs = s.ctxs)
    ∧ ∀ (i : Instr) (s t : State) (e : Err),
        exec i s = .next t → contextOf i ≠ none → t.outcomes ≠ s.outcomes ++ [.err e]

/-- Every operation ends with exactly one outcome, the last of the run, and leaves the parameters, the port and the number
of contexts alone; a pure operation gives the same outcome in every state of one instance and changes nothing
else (R6, R48, R76, R453). -/
def Obligations.OperationsEndWithOneOutcome : Prop :=
  (∀ (i : Instr) (s t : State), exec i s = .next t →
      (∃ r, t.outcomes = s.outcomes ++ [r]) ∧ t.params = s.params ∧ t.port = s.port ∧ t.nCtx = s.nCtx)
    ∧ ∀ (i : Instr) (s u : State), contextOf i = none → s.params = u.params →
        ∃ r, exec i s = .next (s.ended r) ∧ exec i u = .next (u.ended r)

/-- Each operation ends only with the error kinds of its row of R90 (R400). That a MIDI 1.0 row is a FEED and a UMP row a
DEC_UMP is the model's reading (log entry 3). -/
def Obligations.ErrorKindsOfEachOperation : Prop :=
  ∀ (i : Instr) (s : State) (e : Err), exec i s = .next (s.ended (.err e)) → e.kind ∈ errorKinds i

/-- An operation on context `c` reads and writes only context `c`'s record (R47). -/
def Obligations.ContextsAreIndependent : Prop :=
  (∀ (i : Instr) (s t : State) (k : Nat),
      exec i s = .next t → contextOf i ≠ some k → t.ctxs[k]? = s.ctxs[k]?)
    ∧ ∀ (i : Instr) (c : Nat) (s u s' u' : State),
        contextOf i = some c → s.params = u.params → s.ctxs[c]? = u.ctxs[c]? →
        exec i s = .next s' → exec i u = .next u' →
          s'.ctxs[c]? = u'.ctxs[c]?
            ∧ ∃ r, s'.outcomes = s.outcomes ++ [r] ∧ u'.outcomes = u.outcomes ++ [r]

/-- Operations on different contexts commute: the contexts end the same, and each operation's outcome is the same
(R78). -/
def Obligations.OperationsOnDifferentContextsCommute : Prop :=
  ∀ (i j : Instr) (c d : Nat) (s t t' u u' : State),
    contextOf i = some c → contextOf j = some d → c ≠ d →
    exec i s = .next t → exec j t = .next t' → exec j s = .next u → exec i u = .next u' →
      t'.ctxs = u'.ctxs
        ∧ ∃ r q, t'.outcomes = s.outcomes ++ [r, q] ∧ u'.outcomes = s.outcomes ++ [q, r]

/-- RESET: every field of the context takes its reset value and nothing is emitted; a context that does not exist is
refused (R440). -/
def Obligations.ResetClearsItsContext : Prop :=
  ∀ (c : Nat) (s : State),
    (c < s.nCtx → exec (.reset c) s = .next
        { s with ctxs := s.ctxs.set c ⟨none, none, [], false, [], false⟩, outcomes := s.outcomes ++ [.done] })
      ∧ (s.nCtx ≤ c → exec (.reset c) s = .next (s.ended .refused))

/-! ### Values -/

/-- MAKE_UINT (R140). -/
def Obligations.MakeUintChecksItsRange : Prop :=
  ∀ (N v : Nat) (s : State), N ∈ uintWidths →
    (v ≤ 2 ^ N - 1 → exec (.makeUint N v) s = .next (s.ended (.uint N v)))
      ∧ (v > 2 ^ N - 1 → exec (.makeUint N v) s = .next (s.ended (.err (.rangeError N v))))

/-- SCALE: the value itself at equal widths, midpoint to midpoint, and elsewhere the exact quotient rounded to the
nearest integer; the result is in `U_M` (R9, R141). The reference values follow (R145). -/
def Obligations.ScaleIsTheRoundedQuotient : Prop :=
  (∀ (v N M : Nat) (s : State), N ∈ scaleWidths → M ∈ scaleWidths → v ≤ 2 ^ N - 1 →
      ∃ r : Nat, exec (.scale v N M) s = .next (s.ended (.uint M r)) ∧ r = scaleNat v N M ∧ r ≤ 2 ^ M - 1
        ∧ (N = M → r = v)
        ∧ (N ≠ M → v = 2 ^ (N - 1) → r = 2 ^ (M - 1))
        ∧ (N ≠ M → v ≠ 2 ^ (N - 1) →
            (r : Int) = ⌊(v : Rat) * ((2 : Rat) ^ M - 1) / ((2 : Rat) ^ N - 1) + 1 / 2⌋))
    ∧ [0, 1, 63, 64, 65, 100, 126, 127].map (scaleNat · 7 32)
          = [0x00000000, 0x02040810, 0x7EFDFBF7, 0x80000000, 0x83060C18, 0xC993264C, 0xFDFBF7EF, 0xFFFFFFFF]
        ∧ [0, 1, 63, 64, 65, 100, 126, 127].map (scaleNat · 7 16)
          = [0x0000, 0x0204, 0x7EFD, 0x8000, 0x8306, 0xC992, 0xFDFB, 0xFFFF]
        ∧ [0, 1, 63, 64, 65, 100, 126, 127].map (scaleNat · 7 14)
          = [0x0000, 0x0081, 0x1FBF, 0x2000, 0x20C1, 0x3264, 0x3F7E, 0x3FFF]
        ∧ [1, 8191, 8192, 8193, 16382, 16383].map (scaleNat · 14 32)
          = [0x00040010, 0x7FFDFFF7, 0x80000000, 0x80060018, 0xFFFBFFEF, 0xFFFFFFFF]
        ∧ [0x0, 0x1, 0x7FFFFFFF, 0x80000000, 0x80000001, 0xFFFFFFFF].map (scaleNat · 32 7) = [0, 0, 63, 64, 64, 127]
        ∧ [0x0, 0x1, 0x7FFFFFFF, 0x80000000, 0x80000001, 0xFFFFFFFF].map (scaleNat · 32 14)
          = [0, 0, 8191, 8192, 8192, 16383]
        ∧ [0x0, 0x1, 0x7FFF, 0x8000, 0x8001, 0xFFFF].map (scaleNat · 16 7) = [0, 0, 63, 64, 64, 127]
        ∧ scaleNat 0xC000 16 7 = 95 ∧ scaleNat 0x12345678 32 7 = 9 ∧ scaleNat 0x40000000 32 14 = 4096

/-- The laws of SCALE: upscaling then downscaling is the identity, upscaling is injective and strictly increasing, and
downscaling is monotone and lossy (R144). -/
def Obligations.ScaleUpThenDownIsTheIdentity : Prop :=
  ∀ N M : Nat, N ∈ scaleWidths → M ∈ scaleWidths → N < M →
    (∀ v, v ≤ 2 ^ N - 1 → scaleNat (scaleNat v N M) M N = v)
      ∧ (∀ v w, v < w → w ≤ 2 ^ N - 1 → scaleNat v N M < scaleNat w N M)
      ∧ (∀ u w, u ≤ w → w ≤ 2 ^ M - 1 → scaleNat u M N ≤ scaleNat w M N)
      ∧ ∃ u w, u < w ∧ w ≤ 2 ^ M - 1 ∧ scaleNat u M N = scaleNat w M N

/-- TO_BIPOLAR, on both sides of the midpoint (R150). -/
def Obligations.ToBipolarIsTwoSegments : Prop :=
  ∀ (v N : Nat) (s : State), N ∈ scaleWidths → v ≤ 2 ^ N - 1 →
    ∃ x : Rat, exec (.toBipolar v N) s = .next (s.ended (.rational x))
      ∧ (v < 2 ^ (N - 1) → x = ((v : Rat) - 2 ^ (N - 1)) / 2 ^ (N - 1) ∧ -1 ≤ x ∧ x < 0)
      ∧ (2 ^ (N - 1) ≤ v →
          x = ((v : Rat) - 2 ^ (N - 1)) / ((2 : Rat) ^ N - 1 - 2 ^ (N - 1)) ∧ 0 ≤ x ∧ x ≤ 1)
      ∧ (v = 0 → x = -1) ∧ (v = 2 ^ (N - 1) → x = 0) ∧ (v = 2 ^ N - 1 → x = 1)

/-- FROM_BIPOLAR: the two segments rounded, ties up, and `RangeError` outside `[-1, 1]` (R151). -/
def Obligations.FromBipolarRoundsOrRaises : Prop :=
  ∀ (x : Rat) (N : Nat) (s : State), N ∈ scaleWidths →
    (x < -1 ∨ 1 < x → exec (.fromBipolar x N) s = .next (s.ended (.err (.rangeError N x))))
      ∧ (-1 ≤ x → x ≤ 1 → ∃ v : Nat, exec (.fromBipolar x N) s = .next (s.ended (.uint N v)) ∧ v ≤ 2 ^ N - 1
          ∧ (x < 0 → (v : Int) = ⌊(2 : Rat) ^ (N - 1) + x * 2 ^ (N - 1) + 1 / 2⌋)
          ∧ (0 ≤ x → (v : Int) = ⌊(2 : Rat) ^ (N - 1) + x * ((2 : Rat) ^ N - 1 - 2 ^ (N - 1)) + 1 / 2⌋))

/-- FROM_BIPOLAR gives back what TO_BIPOLAR mapped; the converse holds only at the grid points (R152). -/
def Obligations.BipolarRoundTrip : Prop :=
  (∀ (v N : Nat) (s : State), N ∈ scaleWidths → v ≤ 2 ^ N - 1 →
      ∃ x, exec (.toBipolar v N) s = .next (s.ended (.rational x))
        ∧ exec (.fromBipolar x N) s = .next (s.ended (.uint N v)))
    ∧ ∀ (x : Rat) (w N : Nat) (s : State), N ∈ scaleWidths →
        exec (.fromBipolar x N) s = .next (s.ended (.uint N w)) →
        (exec (.toBipolar w N) s = .next (s.ended (.rational x))
          ↔ ∃ v, v ≤ 2 ^ N - 1 ∧ exec (.toBipolar v N) s = .next (s.ended (.rational x)))

/-- TO_UNIPOLAR (R153) and FROM_UNIPOLAR (R154), with their round trip and the tie at 1/2. -/
def Obligations.UnipolarMaps : Prop :=
  ∀ (N : Nat) (s : State), N ∈ scaleWidths →
    (∀ v, v ≤ 2 ^ N - 1 →
        exec (.toUnipolar v N) s = .next (s.ended (.rational ((v : Rat) / ((2 : Rat) ^ N - 1))))
          ∧ exec (.fromUnipolar ((v : Rat) / ((2 : Rat) ^ N - 1)) N) s = .next (s.ended (.uint N v)))
      ∧ (∀ x : Rat, x < 0 ∨ 1 < x →
          exec (.fromUnipolar x N) s = .next (s.ended (.err (.rangeError N x))))
      ∧ (∀ x : Rat, 0 ≤ x → x ≤ 1 → ∃ v : Nat,
          exec (.fromUnipolar x N) s = .next (s.ended (.uint N v)) ∧ v ≤ 2 ^ N - 1
            ∧ (v : Int) = ⌊x * ((2 : Rat) ^ N - 1) + 1 / 2⌋)
      ∧ exec (.fromUnipolar (1 / 2) N) s = .next (s.ended (.uint N (2 ^ (N - 1))))

/-! ### MIDI 1.0 encoding -/

/-- ENC_M1 of the channel voice variants (R181 to R187: status byte, then 7-bit data bytes, low resolution) and of the
System Common and System Real-Time variants (R189 to R193). -/
def Obligations.EncodeMidi1Messages : Prop :=
  (∀ (s : State) (n c p : U7) (v : V7_16) (a : Attr) (x : V7_32) (b : V14_32) (m l : U7) (ch g : U4),
      exec (.encM1 (.noteOff n v a ch g)) s
          = .next (s.ended (.bytes [0x80 ||| ch.setWidth 8, n.setWidth 8, (lo v).setWidth 8]))
        ∧ exec (.encM1 (.noteOn n v a ch g)) s
          = .next (s.ended (.bytes [0x90 ||| ch.setWidth 8, n.setWidth 8, (lo v).setWidth 8]))
        ∧ exec (.encM1 (.notePressure n x ch g)) s
          = .next (s.ended (.bytes [0xA0 ||| ch.setWidth 8, n.setWidth 8, (lo x).setWidth 8]))
        ∧ exec (.encM1 (.cc c x ch g)) s
          = .next (s.ended (.bytes [0xB0 ||| ch.setWidth 8, c.setWidth 8, (lo x).setWidth 8]))
        ∧ exec (.encM1 (.programChange p none ch g)) s
          = .next (s.ended (.bytes [0xC0 ||| ch.setWidth 8, p.setWidth 8]))
        ∧ exec (.encM1 (.programChange p (some (m, l)) ch g)) s
          = .next (s.ended (.bytes [0xB0 ||| ch.setWidth 8, 0x00, m.setWidth 8, 0xB0 ||| ch.setWidth 8, 0x20,
              l.setWidth 8, 0xC0 ||| ch.setWidth 8, p.setWidth 8]))
        ∧ exec (.encM1 (.pressure x ch g)) s
          = .next (s.ended (.bytes [0xD0 ||| ch.setWidth 8, (lo x).setWidth 8]))
        ∧ exec (.encM1 (.pitchBend b ch g)) s
          = .next (s.ended (.bytes [0xE0 ||| ch.setWidth 8, ((lo b).extractLsb' 0 7).setWidth 8,
              ((lo b).extractLsb' 7 7).setWidth 8])))
    ∧ ∀ (s : State) (d : U7) (b : U14) (g : U4),
        exec (.encM1 (.timecodeQuarterFrame d g)) s = .next (s.ended (.bytes [0xF1, d.setWidth 8]))
          ∧ exec (.encM1 (.songPositionPointer b g)) s
            = .next (s.ended (.bytes [0xF2, (b.extractLsb' 0 7).setWidth 8, (b.extractLsb' 7 7).setWidth 8]))
          ∧ exec (.encM1 (.songSelect d g)) s = .next (s.ended (.bytes [0xF3, d.setWidth 8]))
          ∧ exec (.encM1 (.tuneRequest g)) s = .next (s.ended (.bytes [0xF6]))
          ∧ exec (.encM1 (.timingClock g)) s = .next (s.ended (.bytes [0xF8]))
          ∧ exec (.encM1 (.start g)) s = .next (s.ended (.bytes [0xFA]))
          ∧ exec (.encM1 (.continue_ g)) s = .next (s.ended (.bytes [0xFB]))
          ∧ exec (.encM1 (.stop g)) s = .next (s.ended (.bytes [0xFC]))
          ∧ exec (.encM1 (.activeSensing g)) s = .next (s.ended (.bytes [0xFE]))
          ∧ exec (.encM1 (.systemReset g)) s = .next (s.ended (.bytes [0xFF]))

/-- ENC_M1 of sysEx7, with its ID bytes (R194, R294), and `Unsupported`, naming the variant, for the variants MIDI 1.0 cannot
carry: notePitchBend and noteCC (R188), every sysEx8 (R195) and the Utility variants (R196). -/
def Obligations.EncodeMidi1SysExOrUnsupported : Prop :=
  (∀ (s : State) (data : List U7) (g : U4),
      (∀ b, s.params.registry.reg1 b = true →
          exec (.encM1 (.sysEx7 (.mfr1 b) data g)) s
            = .next (s.ended (.bytes ([0xF0, b.setWidth 8] ++ data.map (·.setWidth 8) ++ [0xF7]))))
        ∧ (∀ b1 b2, s.params.registry.reg3 b1 b2 = true →
          exec (.encM1 (.sysEx7 (.mfr3 b1 b2) data g)) s
            = .next (s.ended (.bytes
                ([0xF0, 0x00, b1.setWidth 8, b2.setWidth 8] ++ data.map (·.setWidth 8) ++ [0xF7]))))
        ∧ exec (.encM1 (.sysEx7 (.universal false) data g)) s
            = .next (s.ended (.bytes ([0xF0, 0x7E] ++ data.map (·.setWidth 8) ++ [0xF7])))
        ∧ exec (.encM1 (.sysEx7 (.universal true) data g)) s
            = .next (s.ended (.bytes ([0xF0, 0x7F] ++ data.map (·.setWidth 8) ++ [0xF7]))))
    ∧ ∀ (s : State) (n : U7) (k : PNC) (w : Word) (id : SysExID) (data : List Byte) (sid : Byte) (t : U16) (ch g : U4),
        exec (.encM1 (.notePitchBend n w ch g)) s = .next (s.ended (.err (.unsupported (.variant .notePitchBend))))
          ∧ exec (.encM1 (.noteCC n k w ch g)) s = .next (s.ended (.err (.unsupported (.variant .noteCC))))
          ∧ (id.wf s.params.registry = true →
            exec (.encM1 (.sysEx8 id data sid g)) s = .next (s.ended (.err (.unsupported (.variant .sysEx8)))))
          ∧ exec (.encM1 (.noOp g)) s = .next (s.ended (.err (.unsupported (.variant .noOp))))
          ∧ exec (.encM1 (.jrClock t g)) s = .next (s.ended (.err (.unsupported (.variant .jrClock))))
          ∧ exec (.encM1 (.jrTimestamp t g)) s = .next (s.ended (.err (.unsupported (.variant .jrTimestamp))))

/-! ### MIDI 1.0 decoding -/

/-- DEC_M1's checks in the order of R200: each clause assumes that those above it passed. A complete message that
passes them is decoded by the rule of its status byte. -/
def Obligations.DecodeMidi1ChecksInOrder : Prop :=
  ∀ (s : State) (g : U4),
    exec (.decM1 [] g) s = .next (s.ended (.err .empty))
      ∧ (∀ b rest, b.toNat < 0x80 → exec (.decM1 (b :: rest) g) s = .next (s.ended (.err (.malformed .noStatus))))
      ∧ (∀ rest, rest.getLast? ≠ some 0xF7 →
          exec (.decM1 (0xF0 :: rest) g) s = .next (s.ended (.err (.malformed .noEox))))
      ∧ (∀ body : List Byte, (∃ b ∈ body, 0x80 ≤ b.toNat) →
          exec (.decM1 (0xF0 :: (body ++ [0xF7])) g) s = .next (s.ended (.err (.malformed .statusInBody))))
      ∧ (∀ body : List U7, exec (.decM1 (0xF0 :: (body.map U7.byte ++ [0xF7])) g) s
          = .next (s.ended (eventOr (sysEx7FromBody s.params.registry body g))))
      ∧ (∀ b rest, b ∈ ([0xF4, 0xF5, 0xF7, 0xF9, 0xFD] : List Byte) →
          exec (.decM1 (b :: rest) g) s = .next (s.ended (.err (.malformed .reserved))))
      ∧ ∀ b : Byte, b ≠ 0xF9 → b ≠ 0xFD →
        (∀ n rest, need b = some n → rest.length ≠ n →
            exec (.decM1 (b :: rest) g) s = .next (s.ended (.err (.malformed .length))))
          ∧ (∀ rest, need b = some rest.length → (∃ d ∈ rest, 0x80 ≤ d.toNat) →
            exec (.decM1 (b :: rest) g) s = .next (s.ended (.err (.malformed .statusInData))))
          ∧ ∀ d : List U7, isComplete b d → ∃ e, messageEvent s.params.noteOnV0AsNoteOff b d g = some e
            ∧ exec (.decM1 (b :: d.map U7.byte) g) s = .next (s.ended (.event e))

/-- The events of DEC_M1's channel voice messages, a note on of velocity 0 following `NOTEON_V0_AS_NOTEOFF` (R201 to R207),
and of its System Common and System Real-Time messages (R208 to R212). -/
def Obligations.DecodeMidi1Messages : Prop :=
  (∀ (s : State) (ch g : U4) (a b : U7),
      exec (.decM1 [chanStatus 0x8 ch, a.byte, b.byte] g) s
          = .next (s.ended (.event (.noteOff a (.m1 b) ⟨0, 0⟩ ch g)))
        ∧ exec (.decM1 [chanStatus 0x9 ch, a.byte, b.byte] g) s
          = .next (s.ended (.event (if s.params.noteOnV0AsNoteOff = true ∧ b = 0
              then .noteOff a (.m1 0) ⟨0, 0⟩ ch g else .noteOn a (.m1 b) ⟨0, 0⟩ ch g)))
        ∧ exec (.decM1 [chanStatus 0xA ch, a.byte, b.byte] g) s
          = .next (s.ended (.event (.notePressure a (.m1 b) ch g)))
        ∧ exec (.decM1 [chanStatus 0xB ch, a.byte, b.byte] g) s = .next (s.ended (.event (.cc a (.m1 b) ch g)))
        ∧ exec (.decM1 [chanStatus 0xC ch, a.byte] g) s = .next (s.ended (.event (.programChange a none ch g)))
        ∧ exec (.decM1 [chanStatus 0xD ch, a.byte] g) s = .next (s.ended (.event (.pressure (.m1 a) ch g)))
        ∧ exec (.decM1 [chanStatus 0xE ch, a.byte, b.byte] g) s
          = .next (s.ended (.event (.pitchBend (.m1 (b.setWidth 14 <<< 7 ||| a.setWidth 14)) ch g))))
    ∧ ∀ (s : State) (g : U4) (a b : U7),
        exec (.decM1 [0xF1, a.byte] g) s = .next (s.ended (.event (.timecodeQuarterFrame a g)))
          ∧ exec (.decM1 [0xF2, a.byte, b.byte] g) s
            = .next (s.ended (.event (.songPositionPointer (b.setWidth 14 <<< 7 ||| a.setWidth 14) g)))
          ∧ exec (.decM1 [0xF3, a.byte] g) s = .next (s.ended (.event (.songSelect a g)))
          ∧ exec (.decM1 [0xF6] g) s = .next (s.ended (.event (.tuneRequest g)))
          ∧ exec (.decM1 [0xF8] g) s = .next (s.ended (.event (.timingClock g)))
          ∧ exec (.decM1 [0xFA] g) s = .next (s.ended (.event (.start g)))
          ∧ exec (.decM1 [0xFB] g) s = .next (s.ended (.event (.continue_ g)))
          ∧ exec (.decM1 [0xFC] g) s = .next (s.ended (.event (.stop g)))
          ∧ exec (.decM1 [0xFE] g) s = .next (s.ended (.event (.activeSensing g)))
          ∧ exec (.decM1 [0xFF] g) s = .next (s.ended (.event (.systemReset g)))

/-- The MIDI 1.0 round trip: what ENC_M1 makes of a representable event decodes to an equal one, and with
`NOTEON_V0_AS_NOTEOFF` true it fails for a note on whose velocity byte is 0 (R215). -/
def Obligations.Midi1RoundTrip : Prop :=
  (∀ (e : Event) (s : State), e.wf s.params.registry = true → representableM1 e = true →
      s.params.registry.ok = true → s.params.noteOnV0AsNoteOff = false →
      ∃ bs e', exec (.encM1 e) s = .next (s.ended (.bytes bs))
        ∧ exec (.decM1 bs (groupOf e)) s = .next (s.ended (.event e')) ∧ simEvent e' e = true)
    ∧ ∀ (n : U7) (v : V7_16) (a : Attr) (ch g : U4) (s : State),
        s.params.noteOnV0AsNoteOff = true → lo v = 0 →
        ∃ bs e', exec (.encM1 (.noteOn n v a ch g)) s = .next (s.ended (.bytes bs))
          ∧ exec (.decM1 bs g) s = .next (s.ended (.event e')) ∧ simEvent e' (.noteOn n v a ch g) = false

/-! ### UMP encoding -/

/-- ENC_UMP of channel voice under M2: the MT 0x4 words (R232 to R240). -/
def Obligations.EncodeUmpMidi2ChannelVoice : Prop :=
  ∀ (s : State) (n : U7) (v : V7_16) (a : Attr) (x : V7_32) (b : V14_32) (m l : U7) (i : Byte) (w : Word) (ch g : U4),
    exec (.encUmp (.noteOff n v a ch g) .M2) s = .next (s.ended (.words
        [hdr 0x4 g ||| 0x8 <<< 20 ||| field ch 16 ||| field n 8 ||| field a.atype 0,
          field (hi v) 16 ||| field a.adata 0]))
      ∧ exec (.encUmp (.noteOn n v a ch g) .M2) s = .next (s.ended (.words
        [hdr 0x4 g ||| 0x9 <<< 20 ||| field ch 16 ||| field n 8 ||| field a.atype 0,
          field (hi v) 16 ||| field a.adata 0]))
      ∧ exec (.encUmp (.notePressure n x ch g) .M2) s = .next (s.ended (.words
        [hdr 0x4 g ||| 0xA <<< 20 ||| field ch 16 ||| field n 8, hi x]))
      ∧ exec (.encUmp (.cc n x ch g) .M2) s = .next (s.ended (.words
        [hdr 0x4 g ||| 0xB <<< 20 ||| field ch 16 ||| field n 8, hi x]))
      ∧ exec (.encUmp (.programChange n none ch g) .M2) s = .next (s.ended (.words
        [hdr 0x4 g ||| 0xC <<< 20 ||| field ch 16, field n 24]))
      ∧ exec (.encUmp (.programChange n (some (m, l)) ch g) .M2) s = .next (s.ended (.words
        [hdr 0x4 g ||| 0xC <<< 20 ||| field ch 16 ||| 1, field n 24 ||| field m 8 ||| field l 0]))
      ∧ exec (.encUmp (.pressure x ch g) .M2) s = .next (s.ended (.words
        [hdr 0x4 g ||| 0xD <<< 20 ||| field ch 16, hi x]))
      ∧ exec (.encUmp (.pitchBend b ch g) .M2) s = .next (s.ended (.words
        [hdr 0x4 g ||| 0xE <<< 20 ||| field ch 16, hi b]))
      ∧ exec (.encUmp (.notePitchBend n w ch g) .M2) s = .next (s.ended (.words
        [hdr 0x4 g ||| 0x6 <<< 20 ||| field ch 16 ||| field n 8, w]))
      ∧ exec (.encUmp (.noteCC n (.registered i) w ch g) .M2) s = .next (s.ended (.words
        [hdr 0x4 g ||| 0x0 <<< 20 ||| field ch 16 ||| field n 8 ||| field i 0, w]))
      ∧ exec (.encUmp (.noteCC n (.assignable i) w ch g) .M2) s = .next (s.ended (.words
        [hdr 0x4 g ||| 0x1 <<< 20 ||| field ch 16 ||| field n 8 ||| field i 0, w]))

/-- ENC_UMP of channel voice under M1, one MT 0x2 word for each MIDI 1.0 message and `Unsupported` for the two variants
MIDI 1.0 lacks (R231); and of the System and Utility variants, the same under both protocols (R241, R244). -/
def Obligations.EncodeUmpOneWordMessages : Prop :=
  (∀ (s : State) (n : U7) (v : V7_16) (a : Attr) (x : V7_32) (b : V14_32) (m l : U7) (k : PNC) (w : Word) (ch g : U4),
      exec (.encUmp (.noteOff n v a ch g) .M1) s = .next (s.ended (.words
          [hdr 0x2 g ||| 0x8 <<< 20 ||| field ch 16 ||| field n 8 ||| field (lo v) 0]))
        ∧ exec (.encUmp (.noteOn n v a ch g) .M1) s = .next (s.ended (.words
          [hdr 0x2 g ||| 0x9 <<< 20 ||| field ch 16 ||| field n 8 ||| field (lo v) 0]))
        ∧ exec (.encUmp (.notePressure n x ch g) .M1) s = .next (s.ended (.words
          [hdr 0x2 g ||| 0xA <<< 20 ||| field ch 16 ||| field n 8 ||| field (lo x) 0]))
        ∧ exec (.encUmp (.cc n x ch g) .M1) s = .next (s.ended (.words
          [hdr 0x2 g ||| 0xB <<< 20 ||| field ch 16 ||| field n 8 ||| field (lo x) 0]))
        ∧ exec (.encUmp (.programChange n none ch g) .M1) s = .next (s.ended (.words
          [hdr 0x2 g ||| 0xC <<< 20 ||| field ch 16 ||| field n 8]))
        ∧ exec (.encUmp (.programChange n (some (m, l)) ch g) .M1) s = .next (s.ended (.words
          [hdr 0x2 g ||| 0xB <<< 20 ||| field ch 16 ||| 0x00 <<< 8 ||| field m 0,
            hdr 0x2 g ||| 0xB <<< 20 ||| field ch 16 ||| 0x20 <<< 8 ||| field l 0,
            hdr 0x2 g ||| 0xC <<< 20 ||| field ch 16 ||| field n 8]))
        ∧ exec (.encUmp (.pressure x ch g) .M1) s = .next (s.ended (.words
          [hdr 0x2 g ||| 0xD <<< 20 ||| field ch 16 ||| field (lo x) 8]))
        ∧ exec (.encUmp (.pitchBend b ch g) .M1) s = .next (s.ended (.words
          [hdr 0x2 g ||| 0xE <<< 20 ||| field ch 16 ||| field ((lo b).extractLsb' 0 7) 8
            ||| field ((lo b).extractLsb' 7 7) 0]))
        ∧ exec (.encUmp (.notePitchBend n w ch g) .M1) s
          = .next (s.ended (.err (.unsupported (.variant .notePitchBend))))
        ∧ exec (.encUmp (.noteCC n k w ch g) .M1) s = .next (s.ended (.err (.unsupported (.variant .noteCC)))))
    ∧ ∀ (s : State) (P : Protocol) (d : U7) (b : U14) (t : U16) (g : U4),
        exec (.encUmp (.timecodeQuarterFrame d g) P) s
            = .next (s.ended (.words [hdr 0x1 g ||| 0xF1 <<< 16 ||| field d 8]))
          ∧ exec (.encUmp (.songPositionPointer b g) P) s = .next (s.ended (.words
            [hdr 0x1 g ||| 0xF2 <<< 16 ||| field (b.extractLsb' 0 7) 8 ||| field (b.extractLsb' 7 7) 0]))
          ∧ exec (.encUmp (.songSelect d g) P) s
            = .next (s.ended (.words [hdr 0x1 g ||| 0xF3 <<< 16 ||| field d 8]))
          ∧ exec (.encUmp (.tuneRequest g) P) s = .next (s.ended (.words [hdr 0x1 g ||| 0xF6 <<< 16]))
          ∧ exec (.encUmp (.timingClock g) P) s = .next (s.ended (.words [hdr 0x1 g ||| 0xF8 <<< 16]))
          ∧ exec (.encUmp (.start g) P) s = .next (s.ended (.words [hdr 0x1 g ||| 0xFA <<< 16]))
          ∧ exec (.encUmp (.continue_ g) P) s = .next (s.ended (.words [hdr 0x1 g ||| 0xFB <<< 16]))
          ∧ exec (.encUmp (.stop g) P) s = .next (s.ended (.words [hdr 0x1 g ||| 0xFC <<< 16]))
          ∧ exec (.encUmp (.activeSensing g) P) s = .next (s.ended (.words [hdr 0x1 g ||| 0xFE <<< 16]))
          ∧ exec (.encUmp (.systemReset g) P) s = .next (s.ended (.words [hdr 0x1 g ||| 0xFF <<< 16]))
          ∧ exec (.encUmp (.noOp g) P) s = .next (s.ended (.words [hdr 0x0 g]))
          ∧ exec (.encUmp (.jrClock t g) P) s = .next (s.ended (.words [hdr 0x0 g ||| 0x1 <<< 20 ||| field t 0]))
          ∧ exec (.encUmp (.jrTimestamp t g) P) s
            = .next (s.ended (.words [hdr 0x0 g ||| 0x2 <<< 20 ||| field t 0]))

/-- ENC_UMP of SysEx, packet by packet: for a body of `L` bytes `ceil(L / 6)` packets of sysEx7, packet `j` carrying bytes
`6j` to `6j + 5` (R242), or `ceil(L / 13)` packets of sysEx8, packet `j` carrying bytes `13j` to `13j + 12`
with the stream ID counted in (R243). -/
def Obligations.EncodeUmpSysExPackets : Prop :=
  (∀ (s : State) (P : Protocol) (id : SysExID) (data : List U7) (g : U4) (body : List Byte),
      id.wf s.params.registry = true → body = (idBytes7 id ++ data).map (·.setWidth 8) →
      ∃ ws, exec (.encUmp (.sysEx7 id data g) P) s = .next (s.ended (.words ws))
        ∧ ws.length = 2 * ceilDiv body.length 6
        ∧ ∀ j, j < ceilDiv body.length 6 →
            ws[2 * j]? = some (hdr 0x3 g ||| statusOf j (ceilDiv body.length 6) <<< 20
                ||| BitVec.ofNat 32 (min 6 (body.length - 6 * j)) <<< 16
                ||| bodyField body (6 * j) 8 ||| bodyField body (6 * j + 1) 0)
              ∧ ws[2 * j + 1]? = some (bodyField body (6 * j + 2) 24 ||| bodyField body (6 * j + 3) 16
                ||| bodyField body (6 * j + 4) 8 ||| bodyField body (6 * j + 5) 0))
    ∧ ∀ (s : State) (P : Protocol) (id : SysExID) (data : List Byte) (sid : Byte) (g : U4) (body : List Byte),
        id.wf s.params.registry = true → body = idBytes8 id ++ data →
        ∃ ws, exec (.encUmp (.sysEx8 id data sid g) P) s = .next (s.ended (.words ws))
          ∧ ws.length = 4 * ceilDiv body.length 13
          ∧ ∀ j, j < ceilDiv body.length 13 →
              ws[4 * j]? = some (hdr 0x5 g ||| statusOf j (ceilDiv body.length 13) <<< 20
                  ||| BitVec.ofNat 32 (min 13 (body.length - 13 * j) + 1) <<< 16
                  ||| field sid 8 ||| bodyField body (13 * j) 0)
                ∧ ∀ k, k < 3 → ws[4 * j + 1 + k]? = some
                    (bodyField body (13 * j + 4 * k + 1) 24 ||| bodyField body (13 * j + 4 * k + 2) 16
                      ||| bodyField body (13 * j + 4 * k + 3) 8 ||| bodyField body (13 * j + 4 * k + 4) 0)

/-! ### UMP decoding -/

/-- DEC_UMP's checks in the order of R250, before the rule of the message type. -/
def Obligations.DecodeUmpChecksInOrder : Prop :=
  ∀ (s : State),
    exec (.decUmp []) s = .next (s.ended (.err .empty))
      ∧ (∀ w ws, 0x6 ≤ (mtOf w).toNat →
          exec (.decUmp (w :: ws)) s = .next (s.ended (.err (.malformed .reservedMT))))
      ∧ (∀ w ws, mtOf w = 0x3 → (w :: ws).length % 2 ≠ 0 →
          exec (.decUmp (w :: ws)) s = .next (s.ended (.err (.malformed .length))))
      ∧ (∀ w ws, mtOf w = 0x5 → (w :: ws).length % 4 ≠ 0 →
          exec (.decUmp (w :: ws)) s = .next (s.ended (.err (.malformed .length))))
      ∧ (∀ w ws, mtOf w ∈ ([0x0, 0x1, 0x2] : List U4) → (w :: ws).length ≠ 1 →
          exec (.decUmp (w :: ws)) s = .next (s.ended (.err (.malformed .length))))
      ∧ ∀ w ws, mtOf w = 0x4 → (w :: ws).length ≠ 2 →
          exec (.decUmp (w :: ws)) s = .next (s.ended (.err (.malformed .length)))

/-- Every UMP form that R269 refuses is `Malformed`: an undefined status or count in any packet of an MT 0x3 message, and
in a packet of an MT 0x5 message before which no mixed data packet (R268) stands (R264, R265: the first error
wins). -/
def Obligations.MalformedUmpForms : Prop :=
  ∀ (s : State) (w : Word) (ws : List Word),
    (0x6 ≤ (mtOf w).toNat
        ∨ (mtOf w = 0x0 ∧ 0x3 ≤ (stOf w).toNat)
        ∨ (mtOf w = 0x1
            ∧ byte1 w ∉ ([0xF1, 0xF2, 0xF3, 0xF6, 0xF8, 0xFA, 0xFB, 0xFC, 0xFE, 0xFF] : List Byte))
        ∨ (mtOf w = 0x2 ∧ ((stOf w).toNat < 0x8 ∨ stOf w = 0xF))
        ∨ (mtOf w = 0x3 ∧ ∃ j x, (w :: ws)[2 * j]? = some x ∧ (0x4 ≤ (stOf x).toNat ∨ 6 < (chOf x).toNat))
        ∨ (mtOf w = 0x4 ∧ stOf w = 0x7)
        ∨ (mtOf w = 0x5 ∧ ∃ j x, (w :: ws)[4 * j]? = some x
            ∧ (∀ i y, i < j → (w :: ws)[4 * i]? = some y → stOf y ≠ 0x8 ∧ stOf y ≠ 0x9)
            ∧ (0x4 ≤ (stOf x).toNat ∧ (stOf x).toNat ≤ 0x7 ∨ 0xA ≤ (stOf x).toNat
              ∨ stOf x ≠ 0x8 ∧ stOf x ≠ 0x9 ∧ (chOf x = 0 ∨ chOf x = 15)))
        ∨ ((mtOf w).toNat ≤ 0x5 ∧ (w :: ws).length % wordsOf (mtOf w) ≠ 0)
        ∨ (mtOf w ∈ ([0x0, 0x1, 0x2, 0x4] : List U4) ∧ (w :: ws).length ≠ wordsOf (mtOf w))) →
    ∃ tag, exec (.decUmp (w :: ws)) s = .next (s.ended (.err (.malformed tag)))

/-- The reserved bits of a message take no part in its decoding (R107): MT 0x0 to 0x2 and 0x4 field by field, and in a
SysEx packet the bytes past its count. -/
def Obligations.ReservedFieldsAreIgnored : Prop :=
  ∀ (s : State) (w w' : Word), mtOf w = mtOf w' → grpOf w = grpOf w' →
    (mtOf w = 0x0 → stOf w = stOf w' → (stOf w = 0x0 ∨ lo16 w = lo16 w') →
        ∃ r, exec (.decUmp [w]) s = .next (s.ended r) ∧ exec (.decUmp [w']) s = .next (s.ended r))
      ∧ ((mtOf w = 0x1 ∨ mtOf w = 0x2) → byte1 w = byte1 w' →
          (need (byte1 w) = some 0 ∨ byte2 w = byte2 w' ∧ (need (byte1 w) = some 1 ∨ byte3 w = byte3 w')) →
        ∃ r, exec (.decUmp [w]) s = .next (s.ended r) ∧ exec (.decUmp [w']) s = .next (s.ended r))
      ∧ (∀ x, mtOf w = 0x4 → stOf w = stOf w' → chOf w = chOf w' →
          (stOf w ∈ ([0xD, 0xE] : List U4)
            ∨ (stOf w ∈ ([0x6, 0xA, 0xB] : List U4) ∧ byte2 w = byte2 w')
            ∨ (stOf w = 0xC ∧ (byte3 w).getLsbD 0 = (byte3 w').getLsbD 0)) →
        ∃ r, exec (.decUmp [w, x]) s = .next (s.ended r) ∧ exec (.decUmp [w', x]) s = .next (s.ended r))
      ∧ (∀ x x', mtOf w = 0x4 → stOf w = 0xC → stOf w' = 0xC → chOf w = chOf w' →
          (byte3 w).getLsbD 0 = (byte3 w').getLsbD 0 → byte0 x = byte0 x' →
          ((byte3 w).getLsbD 0 = false ∨ byte2 x = byte2 x' ∧ byte3 x = byte3 x') →
        ∃ r, exec (.decUmp [w, x]) s = .next (s.ended r) ∧ exec (.decUmp [w', x']) s = .next (s.ended r))
      ∧ (∀ (st : U4) (p q : Pack7), p.n = q.n → p.body = q.body →
        ∃ r, exec (.decUmp (p.words (grpOf w) st)) s = .next (s.ended r)
          ∧ exec (.decUmp (q.words (grpOf w) st)) s = .next (s.ended r))
      ∧ ∀ (st : U4) (sid : Byte) (p q : Pack8), p.n = q.n → p.body = q.body →
        ∃ r, exec (.decUmp (p.words (grpOf w) st sid)) s = .next (s.ended r)
          ∧ exec (.decUmp (q.words (grpOf w) st sid)) s = .next (s.ended r)

/-- The utility rows (R251), and the MT 0x1 rows: the event, or `Malformed(DATA7)` when a data position the message uses has
bit 7 set (R252). That a row is one message handed to DEC_UMP is the model's reading (log entry 3). -/
def Obligations.UtilityAndSystemMessagesDecode : Prop :=
  (∀ (s : State) (g : U4) (t : U16),
      exec (.umpNoOp g) s = .next (s.ended (.event (.noOp g)))
        ∧ exec (.umpJrClock g t) s = .next (s.ended (.event (.jrClock t g)))
        ∧ exec (.umpJrTimestamp g t) s = .next (s.ended (.event (.jrTimestamp t g)))
        ∧ ∀ w : Word, mtOf w = 0x0 → 0x3 ≤ (stOf w).toNat →
            exec (.decUmp [w]) s = .next (s.ended (.err (.malformed .status))))
    ∧ ∀ (s : State) (g : U4) (a b : Byte),
        exec (.umpMt1TimecodeQuarterFrame g a) s
            = .next (s.ended (dataOr [a] (.timecodeQuarterFrame a.low7 g)))
          ∧ exec (.umpMt1SongPositionPointer g a b) s
            = .next (s.ended (dataOr [a, b]
                (.songPositionPointer (b.low7.setWidth 14 <<< 7 ||| a.low7.setWidth 14) g)))
          ∧ exec (.umpMt1SongSelect g a) s = .next (s.ended (dataOr [a] (.songSelect a.low7 g)))
          ∧ exec (.umpMt1TuneRequest g) s = .next (s.ended (.event (.tuneRequest g)))
          ∧ exec (.umpMt1TimingClock g) s = .next (s.ended (.event (.timingClock g)))
          ∧ exec (.umpMt1Start g) s = .next (s.ended (.event (.start g)))
          ∧ exec (.umpMt1Continue g) s = .next (s.ended (.event (.continue_ g)))
          ∧ exec (.umpMt1Stop g) s = .next (s.ended (.event (.stop g)))
          ∧ exec (.umpMt1ActiveSensing g) s = .next (s.ended (.event (.activeSensing g)))
          ∧ exec (.umpMt1SystemReset g) s = .next (s.ended (.event (.systemReset g)))
          ∧ ∀ w : Word, mtOf w = 0x1 →
              byte1 w ∉ ([0xF1, 0xF2, 0xF3, 0xF6, 0xF8, 0xFA, 0xFB, 0xFC, 0xFE, 0xFF] : List Byte) →
              exec (.decUmp [w]) s = .next (s.ended (.err (.malformed .status)))

/-- The MT 0x2 rows: the `m1` event, or `Malformed(DATA7)` when a data position the message uses has bit 7 set (R253). That
a row is one message handed to DEC_UMP is the model's reading (log entry 3). -/
def Obligations.Midi1VoiceMessagesDecode : Prop :=
  ∀ (s : State) (g ch : U4) (a b : Byte),
    exec (.umpMt2NoteOff g ch a b) s
        = .next (s.ended (dataOr [a, b] (.noteOff a.low7 (.m1 b.low7) ⟨0, 0⟩ ch g)))
      ∧ exec (.umpMt2NoteOn g ch a b) s
        = .next (s.ended (dataOr [a, b] (if s.params.noteOnV0AsNoteOff = true ∧ b.low7 = 0
            then .noteOff a.low7 (.m1 0) ⟨0, 0⟩ ch g else .noteOn a.low7 (.m1 b.low7) ⟨0, 0⟩ ch g)))
      ∧ exec (.umpMt2NotePressure g ch a b) s
        = .next (s.ended (dataOr [a, b] (.notePressure a.low7 (.m1 b.low7) ch g)))
      ∧ exec (.umpMt2Cc g ch a b) s = .next (s.ended (dataOr [a, b] (.cc a.low7 (.m1 b.low7) ch g)))
      ∧ exec (.umpMt2ProgramChange g ch a) s
        = .next (s.ended (dataOr [a] (.programChange a.low7 none ch g)))
      ∧ exec (.umpMt2Pressure g ch a) s = .next (s.ended (dataOr [a] (.pressure (.m1 a.low7) ch g)))
      ∧ exec (.umpMt2PitchBend g ch a b) s
        = .next (s.ended (dataOr [a, b]
            (.pitchBend (.m1 (b.low7.setWidth 14 <<< 7 ||| a.low7.setWidth 14)) ch g)))
      ∧ ∀ w : Word, mtOf w = 0x2 → ((stOf w).toNat < 0x8 ∨ stOf w = 0xF) →
          exec (.decUmp [w]) s = .next (s.ended (.err (.malformed .status)))

/-- The MT 0x4 rows of the event model: the `m2` event, or `Malformed(DATA7)` when a 7-bit field has bit 7 set (R256 to
R263). That a row is one message handed to DEC_UMP is the model's reading (log entry 3). -/
def Obligations.Midi2VoiceMessagesDecode : Prop :=
  ∀ (s : State) (g ch : U4) (a b : Byte) (v d : U16) (w : Word) (p m l : Byte),
    exec (.umpMt4NoteOff g ch a b v d) s
        = .next (s.ended (dataOr [a] (.noteOff a.low7 (.m2 v) ⟨b, d⟩ ch g)))
      ∧ exec (.umpMt4NoteOn g ch a b v d) s
        = .next (s.ended (dataOr [a] (.noteOn a.low7 (.m2 v) ⟨b, d⟩ ch g)))
      ∧ exec (.umpMt4NotePressure g ch a w) s
        = .next (s.ended (dataOr [a] (.notePressure a.low7 (.m2 w) ch g)))
      ∧ exec (.umpMt4Cc g ch a w) s = .next (s.ended (dataOr [a] (.cc a.low7 (.m2 w) ch g)))
      ∧ exec (.umpMt4ProgramChange g ch true p m l) s
        = .next (s.ended (dataOr [p, m, l] (.programChange p.low7 (some (m.low7, l.low7)) ch g)))
      ∧ exec (.umpMt4ProgramChange g ch false p m l) s
        = .next (s.ended (dataOr [p] (.programChange p.low7 none ch g)))
      ∧ exec (.umpMt4Pressure g ch w) s = .next (s.ended (.event (.pressure (.m2 w) ch g)))
      ∧ exec (.umpMt4PitchBend g ch w) s = .next (s.ended (.event (.pitchBend (.m2 w) ch g)))
      ∧ exec (.umpMt4NotePitchBend g ch a w) s
        = .next (s.ended (dataOr [a] (.notePitchBend a.low7 w ch g)))
      ∧ exec (.umpMt4NoteCCRegistered g ch a b w) s
        = .next (s.ended (dataOr [a] (.noteCC a.low7 (.registered b) w ch g)))
      ∧ exec (.umpMt4NoteCCAssignable g ch a b w) s
        = .next (s.ended (dataOr [a] (.noteCC a.low7 (.assignable b) w ch g)))

/-- The UMP forms refused as `Unsupported`, as rows and whatever else stands in their words (R268), and the reserved rows:
every message type from 0x6 on, and MT 0x4 opcode 0x7 (R254, R269). A mixed data packet that comes first refuses
the message whatever packets follow (R264, R265). That a row is one message handed to DEC_UMP is the
model's reading (log entry 3). -/
def Obligations.UnsupportedAndReservedUmpForms : Prop :=
  (∀ (s : State) (g ch : U4),
      exec (.umpMt4RegisteredController g ch) s = .next (s.ended (.err (.unsupported (.opcode 0x2))))
        ∧ exec (.umpMt4AssignableController g ch) s = .next (s.ended (.err (.unsupported (.opcode 0x3))))
        ∧ exec (.umpMt4RelativeRegisteredController g ch) s = .next (s.ended (.err (.unsupported (.opcode 0x4))))
        ∧ exec (.umpMt4RelativeAssignableController g ch) s = .next (s.ended (.err (.unsupported (.opcode 0x5))))
        ∧ exec (.umpMt4PerNoteManagement g ch) s = .next (s.ended (.err (.unsupported (.opcode 0xF))))
        ∧ exec (.umpMixedDataHeader g) s = .next (s.ended (.err (.unsupported .mixedData)))
        ∧ exec (.umpMixedDataPayload g) s = .next (s.ended (.err (.unsupported .mixedData)))
        ∧ (∀ w x : Word, mtOf w = 0x4 → stOf w ∈ ([0x2, 0x3, 0x4, 0x5, 0xF] : List U4) →
            exec (.decUmp [w, x]) s = .next (s.ended (.err (.unsupported (.opcode (stOf w))))))
        ∧ ∀ (w : Word) (ws : List Word), mtOf w = 0x5 → (stOf w = 0x8 ∨ stOf w = 0x9) → (w :: ws).length % 4 = 0 →
            exec (.decUmp (w :: ws)) s = .next (s.ended (.err (.unsupported .mixedData))))
    ∧ ∀ (s : State) (g ch : U4) (i : Instr),
        i ∈ [.umpReservedMT6 g, .umpReservedMT7 g, .umpReservedMT8 g, .umpReservedMT9 g, .umpReservedMTA g,
              .umpReservedMTB g, .umpReservedMTC g, .umpReservedMTD g, .umpReservedMTE g, .umpReservedMTF g,
              .umpMt4ReservedOp7 g ch] →
        exec i s = .next (s.ended (.err (.malformed (if i = .umpMt4ReservedOp7 g ch then .status else .reservedMT))))

/-- The sysEx7 rows (R264, R265): a complete packet alone and a start packet with its continue and end packets give the
event of their bytes in order; a message that begins with a continue or an end packet is `Malformed`, and so
is a start packet alone and a complete packet with more behind it. That the row carries the whole message is the
model's reading (log entry 3). -/
def Obligations.SysEx7MessagesDecode : Prop :=
  ∀ (s : State) (g : U4) (p q : Pack7) (mid : List Pack7) (rest : List Word) (body : List U7),
    (p.counted → p.body = body.map U7.byte →
        exec (.umpSysEx7Complete g p.n p.b0 p.b1 p.w1 []) s
          = .next (s.ended (eventOr (sysEx7FromBody s.params.registry body g))))
      ∧ ((∀ x ∈ p :: (mid ++ [q]), x.counted) →
          (p :: (mid ++ [q])).flatMap Pack7.body = body.map U7.byte →
        exec (.umpSysEx7Start g p.n p.b0 p.b1 p.w1 (mid.flatMap (Pack7.words g 0x2) ++ q.words g 0x3)) s
          = .next (s.ended (eventOr (sysEx7FromBody s.params.registry body g))))
      ∧ (∃ tag, exec (.umpSysEx7Continue g p.n p.b0 p.b1 p.w1 rest) s = .next (s.ended (.err (.malformed tag))))
      ∧ (∃ tag, exec (.umpSysEx7End g p.n p.b0 p.b1 p.w1 rest) s = .next (s.ended (.err (.malformed tag))))
      ∧ (∃ tag, exec (.umpSysEx7Start g p.n p.b0 p.b1 p.w1 []) s = .next (s.ended (.err (.malformed tag))))
      ∧ (rest ≠ [] →
          ∃ tag, exec (.umpSysEx7Complete g p.n p.b0 p.b1 p.w1 rest) s = .next (s.ended (.err (.malformed tag))))

/-- The sysEx8 rows (R264, R265), as the sysEx7 rows, with the stream ID; behind a packet that is not the whole message a
mixed data packet gives `Unsupported`. That the row carries the whole message is the model's reading (log
entry 3). -/
def Obligations.SysEx8MessagesDecode : Prop :=
  ∀ (s : State) (g : U4) (sid : Byte) (p q : Pack8) (mid : List Pack8) (rest : List Word),
    (p.counted →
        exec (.umpSysEx8Complete g p.n sid p.b0 p.w1 p.w2 p.w3 []) s
          = .next (s.ended (eventOr (sysEx8FromBody s.params.registry p.body sid g))))
      ∧ ((∀ x ∈ p :: (mid ++ [q]), x.counted) →
        exec (.umpSysEx8Start g p.n sid p.b0 p.w1 p.w2 p.w3
            (mid.flatMap (Pack8.words g 0x2 sid) ++ q.words g 0x3 sid)) s
          = .next (s.ended (eventOr (sysEx8FromBody s.params.registry
              ((p :: (mid ++ [q])).flatMap Pack8.body) sid g))))
      ∧ (∃ e, exec (.umpSysEx8Continue g p.n sid p.b0 p.w1 p.w2 p.w3 rest) s = .next (s.ended (.err e))
          ∧ (rest = [] → e.kind = .malformed))
      ∧ (∃ e, exec (.umpSysEx8End g p.n sid p.b0 p.w1 p.w2 p.w3 rest) s = .next (s.ended (.err e))
          ∧ (rest = [] → e.kind = .malformed))
      ∧ (∃ tag, exec (.umpSysEx8Start g p.n sid p.b0 p.w1 p.w2 p.w3 []) s = .next (s.ended (.err (.malformed tag))))
      ∧ (rest ≠ [] →
          ∃ e, exec (.umpSysEx8Complete g p.n sid p.b0 p.w1 p.w2 p.w3 rest) s = .next (s.ended (.err e)))

/-- packetsToSysEx (R265): packets with allowed statuses and counts give the event of their bytes in order when they
share one group (and one stream ID) and their statuses read complete, or start, continue .., end; otherwise
`Malformed(SEQUENCE)`. Behind packets that unpack, the first that does not gives its error, whatever follows:
`Malformed` for a status or count that is not allowed, `Malformed(DATA7)` for a counted MT 0x3 byte with bit 7
set (R108, R264), `Unsupported` for mixed data (R268). -/
def Obligations.PacketSequencesJoinOrFail : Prop :=
  ∀ (s : State),
    (∀ (ps : List (U4 × U4 × Pack7)) (body : List U7), ps ≠ [] →
        (∀ x ∈ ps, x.2.1.toNat ≤ 0x3 ∧ x.2.2.counted) →
        ps.flatMap (·.2.2.body) = body.map U7.byte →
        (((∀ x ∈ ps, ∀ y ∈ ps, x.1 = y.1)
              ∧ ∀ j x, ps[j]? = some x → x.2.1.setWidth 32 = statusOf j ps.length) →
          ∃ g, (∀ x ∈ ps, x.1 = g) ∧ exec (.decUmp (ps.flatMap fun x => x.2.2.words x.1 x.2.1)) s
            = .next (s.ended (eventOr (sysEx7FromBody s.params.registry body g))))
          ∧ (¬((∀ x ∈ ps, ∀ y ∈ ps, x.1 = y.1)
              ∧ ∀ j x, ps[j]? = some x → x.2.1.setWidth 32 = statusOf j ps.length) →
            exec (.decUmp (ps.flatMap fun x => x.2.2.words x.1 x.2.1)) s
              = .next (s.ended (.err (.malformed .sequence)))))
      ∧ (∀ (pre post : List (U4 × U4 × Pack7)) (x : U4 × U4 × Pack7),
        (∀ y ∈ pre, y.2.1.toNat ≤ 0x3 ∧ y.2.2.counted ∧ ∀ b ∈ y.2.2.body, b.toNat < 0x80) →
        (x.2.1.toNat ≤ 0x3 → x.2.2.counted → (∃ b ∈ x.2.2.body, 0x80 ≤ b.toNat) →
          exec (.decUmp ((pre ++ x :: post).flatMap fun x => x.2.2.words x.1 x.2.1)) s
            = .next (s.ended (.err (.malformed .data7))))
          ∧ (0x3 < x.2.1.toNat ∨ ¬x.2.2.counted →
            ∃ tag, exec (.decUmp ((pre ++ x :: post).flatMap fun x => x.2.2.words x.1 x.2.1)) s
              = .next (s.ended (.err (.malformed tag)))))
      ∧ (∀ (pre post : List (U4 × U4 × Byte × Pack8)) (x : U4 × U4 × Byte × Pack8),
        (∀ y ∈ pre, y.2.1.toNat ≤ 0x3 ∧ y.2.2.2.counted) →
        (x.2.1 = 0x8 ∨ x.2.1 = 0x9 →
          exec (.decUmp ((pre ++ x :: post).flatMap fun x => x.2.2.2.words x.1 x.2.1 x.2.2.1)) s
            = .next (s.ended (.err (.unsupported .mixedData))))
          ∧ (x.2.1 ≠ 0x8 → x.2.1 ≠ 0x9 → 0x3 < x.2.1.toNat ∨ ¬x.2.2.2.counted →
            ∃ tag, exec (.decUmp ((pre ++ x :: post).flatMap fun x => x.2.2.2.words x.1 x.2.1 x.2.2.1)) s
              = .next (s.ended (.err (.malformed tag)))))
      ∧ ∀ (ps : List (U4 × U4 × Byte × Pack8)), ps ≠ [] →
        (∀ x ∈ ps, x.2.1.toNat ≤ 0x3 ∧ x.2.2.2.counted) →
        (((∀ x ∈ ps, ∀ y ∈ ps, x.1 = y.1 ∧ x.2.2.1 = y.2.2.1)
              ∧ ∀ j x, ps[j]? = some x → x.2.1.setWidth 32 = statusOf j ps.length) →
          ∃ g sid, (∀ x ∈ ps, x.1 = g ∧ x.2.2.1 = sid)
            ∧ exec (.decUmp (ps.flatMap fun x => x.2.2.2.words x.1 x.2.1 x.2.2.1)) s
              = .next (s.ended (eventOr
                  (sysEx8FromBody s.params.registry (ps.flatMap (·.2.2.2.body)) sid g))))
          ∧ (¬((∀ x ∈ ps, ∀ y ∈ ps, x.1 = y.1 ∧ x.2.2.1 = y.2.2.1)
              ∧ ∀ j x, ps[j]? = some x → x.2.1.setWidth 32 = statusOf j ps.length) →
            exec (.decUmp (ps.flatMap fun x => x.2.2.2.words x.1 x.2.1 x.2.2.1)) s
              = .next (s.ended (.err (.malformed .sequence))))

/-- The UMP round trip: what ENC_UMP makes of a representable event decodes to an equal one (R266). -/
def Obligations.UmpRoundTrip : Prop :=
  ∀ (e : Event) (P : Protocol) (s : State), e.wf s.params.registry = true → representableUmp P e = true →
    s.params.registry.ok = true → (P = .M1 → s.params.noteOnV0AsNoteOff = false) →
    ∃ ws e', exec (.encUmp e P) s = .next (s.ended (.words ws))
      ∧ exec (.decUmp ws) s = .next (s.ended (.event e')) ∧ simEvent e' e = true

/-! ### SysEx identifiers -/

/-- SYSEX_ID at width 7 (R291) and at width 8 (R292), the operation of R290. That at width 7 any byte with bit 7 set is
`DATA7`, one behind the ID too, is the model's reading: R290's pseudocode says so and its corner case does not
(log entry 10). -/
def Obligations.SysExIdOfRawBytes : Prop :=
  (∀ (s : State),
      (∀ bs : List Byte, (∃ b ∈ bs, 0x80 ≤ b.toNat) →
          exec (.sysexId bs 7) s = .next (s.ended (.err (.malformed .data7))))
        ∧ exec (.sysexId [] 7) s = .next (s.ended (.err (.malformed .emptyBody)))
        ∧ (∀ d : List U7, d.length < 2 →
            exec (.sysexId (0x00 :: d.map U7.byte) 7) s = .next (s.ended (.err (.malformed .shortId))))
        ∧ (∀ (b1 b2 : U7) (d : List U7), s.params.registry.reg3 b1 b2 = true →
            exec (.sysexId (0x00 :: b1.byte :: b2.byte :: d.map U7.byte) 7) s
              = .next (s.ended (.sysexId (.mfr3 b1 b2) 3)))
        ∧ (∀ (b1 b2 : U7) (d : List U7), s.params.registry.reg3 b1 b2 = false →
            exec (.sysexId (0x00 :: b1.byte :: b2.byte :: d.map U7.byte) 7) s
              = .next (s.ended (.err (.malformed .unregistered))))
        ∧ ∀ (b : U7) (d : List U7), b ≠ 0 →
            (s.params.registry.reg1 b = true →
                exec (.sysexId (b.byte :: d.map U7.byte) 7) s = .next (s.ended (.sysexId (.mfr1 b) 1)))
              ∧ (s.params.registry.reg1 b = false → b = 0x7E →
                exec (.sysexId (b.byte :: d.map U7.byte) 7) s = .next (s.ended (.sysexId (.universal false) 1)))
              ∧ (s.params.registry.reg1 b = false → b = 0x7F →
                exec (.sysexId (b.byte :: d.map U7.byte) 7) s = .next (s.ended (.sysexId (.universal true) 1)))
              ∧ (s.params.registry.reg1 b = false → b ≠ 0x7E → b ≠ 0x7F →
                exec (.sysexId (b.byte :: d.map U7.byte) 7) s
                  = .next (s.ended (.err (.malformed .unregistered)))))
    ∧ ∀ (s : State),
        (∀ bs : List Byte, bs.length < 2 →
            exec (.sysexId bs 8) s = .next (s.ended (.err (.malformed .shortId))))
          ∧ (∀ (h l : Byte) (d : List Byte), (h = 0x00 ∨ 0x80 ≤ h.toNat) → 0x80 ≤ l.toNat →
              exec (.sysexId (h :: l :: d) 8) s = .next (s.ended (.err (.malformed .data7))))
          ∧ (∀ (h l : Byte) (d : List Byte), h ≠ 0x00 → h.toNat < 0x80 →
              exec (.sysexId (h :: l :: d) 8) s = .next (s.ended (.err (.malformed .unregistered))))
          ∧ (∀ (b1 b2 : U7) (d : List Byte), s.params.registry.reg3 b1 b2 = true →
              exec (.sysexId ((0x80 ||| b1.byte) :: b2.byte :: d) 8) s
                = .next (s.ended (.sysexId (.mfr3 b1 b2) 2)))
          ∧ (∀ (b1 b2 : U7) (d : List Byte), s.params.registry.reg3 b1 b2 = false →
              exec (.sysexId ((0x80 ||| b1.byte) :: b2.byte :: d) 8) s
                = .next (s.ended (.err (.malformed .unregistered))))
          ∧ ∀ (b : U7) (d : List Byte),
              (s.params.registry.reg1 b = true →
                  exec (.sysexId (0x00 :: b.byte :: d) 8) s = .next (s.ended (.sysexId (.mfr1 b) 2)))
                ∧ (s.params.registry.reg1 b = false → b = 0x7E →
                  exec (.sysexId (0x00 :: b.byte :: d) 8) s = .next (s.ended (.sysexId (.universal false) 2)))
                ∧ (s.params.registry.reg1 b = false → b = 0x7F →
                  exec (.sysexId (0x00 :: b.byte :: d) 8) s = .next (s.ended (.sysexId (.universal true) 2)))
                ∧ (s.params.registry.reg1 b = false → b ≠ 0x7E → b ≠ 0x7F →
                  exec (.sysexId (0x00 :: b.byte :: d) 8) s = .next (s.ended (.err (.malformed .unregistered))))

/-- The laws of ID resolution, for a registry that R293 allows (R298). -/
def Obligations.SysExIdResolvesItsOwnBytes : Prop :=
  ∀ (s : State) (id : SysExID), s.params.registry.ok = true → id.wf s.params.registry = true →
    (∀ rest : List U7, exec (.sysexId ((idBytes7 id ++ rest).map U7.byte) 7) s
        = .next (s.ended (.sysexId id (idBytes7 id).length)))
      ∧ (∀ rest : List Byte, exec (.sysexId (idBytes8 id ++ rest) 8) s = .next (s.ended (.sysexId id 2)))
      ∧ (∀ (data : List U7) (g : U4),
          sysEx7FromBody s.params.registry (body7 id data) g = .ok (.sysEx7 id data g))
      ∧ ∀ (data : List Byte) (sid : Byte) (g : U4),
          sysEx8FromBody s.params.registry (body8 id data) sid g = .ok (.sysEx8 id data sid g)

/-! ### The stream parser -/

/-- FEED of several chunks in turn leaves the context and emits the items that one FEED of them all does, each item with
the timestamp of its own FEED (R336); an empty FEED emits nothing and changes nothing (R339). -/
def Obligations.ChunkBoundariesDoNotMatter : Prop :=
  (∀ (c : Nat) (t : U64) (chunks : List (U64 × List Byte)) (s : State), c < s.nCtx →
      ∃ (S : Ctx) (iss : List (List Item)), iss.length = chunks.length
        ∧ execAll (chunks.map fun k => .feed c k.1 k.2) s
          = .next { s with
              ctxs := s.ctxs.set c S
              outcomes := s.outcomes
                ++ List.zipWith (fun k its => Result.items (its.map fun it => (k.1, it))) chunks iss }
        ∧ exec (.feed c t (chunks.map Prod.snd).flatten) s = .next (s.emitted c S t iss.flatten))
    ∧ ∀ (c : Nat) (t : U64) (s : State), c < s.nCtx → exec (.feed c t []) s = .next (s.ended (.items []))

/-- FEED of `n` bytes emits at most `2n` items, and every event in them carries the context's group, low-resolution
values and no attribute, and is one that MIDI 1.0 bytes carry (R213, R320, R323, R452). -/
def Obligations.FeedEmitsOnlyMidi1Events : Prop :=
  ∀ (c : Nat) (t : U64) (bs : List Byte) (s : State), c < s.nCtx →
    ∃ S its, exec (.feed c t bs) s = .next (s.emitted c S t its) ∧ its.length ≤ 2 * bs.length
      ∧ ∀ e, .ev e ∈ its → groupOf e = s.params.parserGroup c ∧ atLowResolution e = true ∧ inMidi1 e = true

/-- A System Real-Time byte emits its event and changes no context, `FF` too (R329); `F9` and `FD` emit their item and change
no context (R331); `F4` and `F5` end what is partial and clear running status (R330). That a row is FEED of its byte is the
model's reading (log entry 3). -/
def Obligations.RealTimeAndReservedBytesEmitTheirItem : Prop :=
  (∀ (c : Nat) (t : U64) (s : State), c < s.nCtx →
      exec (.m1TimingClock c t) s = .next (s.ended (.items [(t, .ev (.timingClock (s.params.parserGroup c)))]))
        ∧ exec (.m1Start c t) s = .next (s.ended (.items [(t, .ev (.start (s.params.parserGroup c)))]))
        ∧ exec (.m1Continue c t) s = .next (s.ended (.items [(t, .ev (.continue_ (s.params.parserGroup c)))]))
        ∧ exec (.m1Stop c t) s = .next (s.ended (.items [(t, .ev (.stop (s.params.parserGroup c)))]))
        ∧ exec (.m1ActiveSensing c t) s
          = .next (s.ended (.items [(t, .ev (.activeSensing (s.params.parserGroup c)))]))
        ∧ exec (.m1SystemReset c t) s
          = .next (s.ended (.items [(t, .ev (.systemReset (s.params.parserGroup c)))])))
    ∧ ∀ (c : Nat) (t : U64) (s : State) (S : Ctx), s.ctxs[c]? = some S →
        exec (.m1ReservedF9 c t) s = .next (s.ended (.items [(t, .er .reserved [0xF9])]))
          ∧ exec (.m1ReservedFD c t) s = .next (s.ended (.items [(t, .er .reserved [0xFD])]))
          ∧ (S.Inv s.params.sysexMax →
              exec (.m1ReservedF4 c t) s
                = .next (s.emitted c (quiet none) t (cutShort S ++ [.er .reserved [0xF4]]))
              ∧ exec (.m1ReservedF5 c t) s
                = .next (s.emitted c (quiet none) t (cutShort S ++ [.er .reserved [0xF5]])))

/-- A channel voice status byte ends what is partial, becomes running status and waits for its data bytes (R335); with them it
emits its event and leaves its status running (R334). That each message is a row is the model's reading (log
entry 3). -/
def Obligations.ChannelVoiceMessagesParse : Prop :=
  ∀ (c : Nat) (t : U64) (s : State) (S : Ctx) (ch g : U4) (a b : U7),
    s.ctxs[c]? = some S → S.Inv s.params.sysexMax → g = s.params.parserGroup c →
    (∀ st : Byte, isChanStatus st = true → exec (.feed c t [st]) s
        = .next (s.emitted c { quiet (some st) with pend := some st } t (cutShort S)))
      ∧ exec (.m1NoteOff c t ch a b) s = .next (s.emitted c (quiet (some (chanStatus 0x8 ch))) t
        (cutShort S ++ [.ev (.noteOff a (.m1 b) ⟨0, 0⟩ ch g)]))
      ∧ exec (.m1NoteOn c t ch a b) s = .next (s.emitted c (quiet (some (chanStatus 0x9 ch))) t
        (cutShort S ++ [.ev (if s.params.noteOnV0AsNoteOff = true ∧ b = 0
          then .noteOff a (.m1 0) ⟨0, 0⟩ ch g else .noteOn a (.m1 b) ⟨0, 0⟩ ch g)]))
      ∧ exec (.m1NotePressure c t ch a b) s = .next (s.emitted c (quiet (some (chanStatus 0xA ch))) t
        (cutShort S ++ [.ev (.notePressure a (.m1 b) ch g)]))
      ∧ exec (.m1Cc c t ch a b) s = .next (s.emitted c (quiet (some (chanStatus 0xB ch))) t
        (cutShort S ++ [.ev (.cc a (.m1 b) ch g)]))
      ∧ exec (.m1ProgramChange c t ch a) s = .next (s.emitted c (quiet (some (chanStatus 0xC ch))) t
        (cutShort S ++ [.ev (.programChange a none ch g)]))
      ∧ exec (.m1Pressure c t ch a) s = .next (s.emitted c (quiet (some (chanStatus 0xD ch))) t
        (cutShort S ++ [.ev (.pressure (.m1 a) ch g)]))
      ∧ exec (.m1PitchBend c t ch a b) s = .next (s.emitted c (quiet (some (chanStatus 0xE ch))) t
        (cutShort S ++ [.ev (.pitchBend (.m1 (b.setWidth 14 <<< 7 ||| a.setWidth 14)) ch g)]))

/-- A System Common status byte ends what is partial, clears running status and waits for its data bytes (R332); with them it
emits its event (R334). That each message is a row is the model's reading (log entry 3). -/
def Obligations.SystemCommonMessagesParse : Prop :=
  ∀ (c : Nat) (t : U64) (s : State) (S : Ctx) (g : U4) (a b : U7),
    s.ctxs[c]? = some S → S.Inv s.params.sysexMax → g = s.params.parserGroup c →
    (∀ st ∈ ([0xF1, 0xF2, 0xF3] : List Byte), exec (.feed c t [st]) s
        = .next (s.emitted c { quiet none with pend := some st } t (cutShort S)))
      ∧ exec (.m1TimecodeQuarterFrame c t a) s
        = .next (s.emitted c (quiet none) t (cutShort S ++ [.ev (.timecodeQuarterFrame a g)]))
      ∧ exec (.m1SongPositionPointer c t a b) s = .next (s.emitted c (quiet none) t
        (cutShort S ++ [.ev (.songPositionPointer (b.setWidth 14 <<< 7 ||| a.setWidth 14) g)]))
      ∧ exec (.m1SongSelect c t a) s
        = .next (s.emitted c (quiet none) t (cutShort S ++ [.ev (.songSelect a g)]))
      ∧ exec (.m1TuneRequest c t) s
        = .next (s.emitted c (quiet none) t (cutShort S ++ [.ev (.tuneRequest g)]))

/-- `F0` and the data bytes after it: what is partial ends, and a SysEx is open with the bytes its accumulator keeps;
running status is unchanged (R326, R333). That the row carries the bytes that follow is the model's reading (log
entry 3). -/
def Obligations.SysExStartOpensAndAccumulates : Prop :=
  ∀ (c : Nat) (t : U64) (s : State) (S : Ctx) (body : List U7),
    s.ctxs[c]? = some S → S.Inv s.params.sysexMax →
    exec (.m1SysExStart c t body) s = .next (s.emitted c
      (inSysEx S.rs (keptBody s.params.sysexMax body) (bodyDropped s.params.sysexMax body)) t (cutShort S))

/-- `F7`: an open SysEx gives its event, or a malformed or overflow item, and closes; otherwise what is partial ends and
the byte is stray; running status is unchanged (R327). That the row is FEED of `F7` is the model's reading (log
entry 3). -/
def Obligations.EndOfExclusiveClosesOrIsStray : Prop :=
  ∀ (c : Nat) (t : U64) (s : State) (S : Ctx), s.ctxs[c]? = some S → S.Inv s.params.sysexMax →
    (S.sx = true → S.ovf = true → exec (.m1Eox c t) s
        = .next (s.emitted c (quiet S.rs) t [.er .sysexOverflow (S.acc.map U7.byte)]))
      ∧ (∀ e, S.sx = true → S.ovf = false →
          sysEx7FromBody s.params.registry S.acc (s.params.parserGroup c) = .ok e →
          exec (.m1Eox c t) s = .next (s.emitted c (quiet S.rs) t [.ev e]))
      ∧ (∀ e, S.sx = true → S.ovf = false →
          sysEx7FromBody s.params.registry S.acc (s.params.parserGroup c) = .error e →
          exec (.m1Eox c t) s
            = .next (s.emitted c (quiet S.rs) t [.er .sysexMalformed (S.acc.map U7.byte)]))
      ∧ (S.sx = false → exec (.m1Eox c t) s
        = .next (s.emitted c (quiet S.rs) t (cutShort S ++ [.er .strayEox [0xF7]])))

/-- A data byte: into the accumulator of an open SysEx, or dropped there; else an orphan with no status to go with; else
one more byte of its message, whose event, the one DEC_M1 gives, comes with the last (R333, R334). That the row is
FEED of the byte is the model's reading (log entry 3). -/
def Obligations.DataByteAccumulatesCollectsOrIsOrphan : Prop :=
  ∀ (c : Nat) (t : U64) (s : State) (S : Ctx) (b : U7), s.ctxs[c]? = some S → S.Inv s.params.sysexMax →
    (S.sx = true → (∀ m, s.params.sysexMax = some m → S.acc.length < m) →
        exec (.m1DataByte c t b) s = .next (s.emitted c (inSysEx S.rs (S.acc ++ [b]) S.ovf) t []))
      ∧ (S.sx = true → s.params.sysexMax = some S.acc.length →
        exec (.m1DataByte c t b) s = .next (s.emitted c (inSysEx S.rs S.acc true) t []))
      ∧ (S.sx = false → S.pend = none → S.rs = none →
        exec (.m1DataByte c t b) s = .next (s.ended (.items [(t, .er .orphan [b.byte])])))
      ∧ ∀ (p : Byte) (d : List U7), S.sx = false →
          (S.pend = some p ∧ d = S.pd ++ [b] ∨ S.pend = none ∧ S.rs = some p ∧ d = [b]) →
          (isComplete p d → ∃ e, messageEvent s.params.noteOnV0AsNoteOff p d (s.params.parserGroup c) = some e
              ∧ exec (.decM1 (p :: d.map U7.byte) (s.params.parserGroup c)) s = .next (s.ended (.event e))
              ∧ exec (.m1DataByte c t b) s = .next (s.emitted c (quiet S.rs) t [.ev e]))
            ∧ (¬isComplete p d → exec (.m1DataByte c t b) s
              = .next (s.emitted c { quiet S.rs with pend := some p, pd := d } t []))

/-- Resynchronisation: in any context that has the invariants, a complete message that carries its own status byte emits
at most the item of what it cut short, and then exactly the event DEC_M1 gives; the same for a SysEx that
DEC_M1 accepts and the accumulator holds (R338). -/
def Obligations.MessageWithItsStatusIsDecodedExactly : Prop :=
  ∀ (c : Nat) (t : U64) (s : State) (S : Ctx), s.ctxs[c]? = some S → S.Inv s.params.sysexMax →
    (cutShort S).length ≤ 1
      ∧ (∀ (b : Byte) (d : List U7), isChanStatus b = true ∨ b ∈ ([0xF1, 0xF2, 0xF3, 0xF6] : List Byte) →
          isComplete b d →
          ∃ e S', exec (.decM1 (b :: d.map U7.byte) (s.params.parserGroup c)) s = .next (s.ended (.event e))
            ∧ exec (.feed c t (b :: d.map U7.byte)) s = .next (s.emitted c S' t (cutShort S ++ [.ev e])))
      ∧ ∀ (body : List U7) (e : Event), withinMax s.params.sysexMax body.length →
          exec (.decM1 (0xF0 :: (body.map U7.byte ++ [0xF7])) (s.params.parserGroup c)) s
            = .next (s.ended (.event e)) →
          ∃ S', exec (.feed c t (0xF0 :: (body.map U7.byte ++ [0xF7]))) s
            = .next (s.emitted c S' t (cutShort S ++ [.ev e]))

/-- Parser and encoder agree: FEED of what ENC_M1 makes of a representable event emits exactly one equal event in a
context with nothing partial, whatever its running status; a banked program change gives its three events
(R340). -/
def Obligations.ParserAgreesWithEncoder : Prop :=
  ∀ (c : Nat) (t : U64) (s : State) (S : Ctx), s.ctxs[c]? = some S → S.Inv s.params.sysexMax →
    S.sx = false → S.pend = none → s.params.registry.ok = true → s.params.noteOnV0AsNoteOff = false →
    (∀ e : Event, e.wf s.params.registry = true → representableM1 e = true →
        groupOf e = s.params.parserGroup c →
        (∀ id data g, e = .sysEx7 id data g → withinMax s.params.sysexMax (body7 id data).length) →
        ∃ bs e' S', exec (.encM1 e) s = .next (s.ended (.bytes bs))
          ∧ exec (.feed c t bs) s = .next (s.emitted c S' t [.ev e']) ∧ simEvent e' e = true)
      ∧ ∀ (p m l : U7) (ch g : U4), g = s.params.parserGroup c →
        ∃ bs S', exec (.encM1 (.programChange p (some (m, l)) ch g)) s = .next (s.ended (.bytes bs))
          ∧ exec (.feed c t bs) s = .next (s.emitted c S' t
            [.ev (.cc 0 (.m1 m) ch g), .ev (.cc 32 (.m1 l) ch g), .ev (.programChange p none ch g)])

/-! ### Classifier and filter -/

/-- CLASSIFY of every variant (R38, R370): every event has one category and one type, its type is among those of its category,
and the type sets are disjoint (R371). -/
def Obligations.ClassifyEachVariant : Prop :=
  (∀ (s : State) (n : U7) (v : V7_16) (a : Attr) (x : V7_32) (k : Option (U7 × U7)) (b : V14_32) (w : Word) (p : PNC)
        (q : U14) (t : U16) (rt : Bool) (id : SysExID) (d7 : List U7) (d8 : List Byte) (sid : Byte) (ch g : U4),
      exec (.classify (.noteOn n v a ch g)) s = .next (s.ended (.classified .chanVoice .noteOn))
        ∧ exec (.classify (.noteOff n v a ch g)) s = .next (s.ended (.classified .chanVoice .noteOff))
        ∧ exec (.classify (.notePressure n x ch g)) s = .next (s.ended (.classified .chanVoice .notePressure))
        ∧ exec (.classify (.cc n x ch g)) s = .next (s.ended (.classified .chanVoice .cc))
        ∧ exec (.classify (.programChange n k ch g)) s = .next (s.ended (.classified .chanVoice .programChange))
        ∧ exec (.classify (.pressure x ch g)) s = .next (s.ended (.classified .chanVoice .pressure))
        ∧ exec (.classify (.pitchBend b ch g)) s = .next (s.ended (.classified .chanVoice .pitchBend))
        ∧ exec (.classify (.notePitchBend n w ch g)) s = .next (s.ended (.classified .chanVoice .notePitchBend))
        ∧ exec (.classify (.noteCC n p w ch g)) s = .next (s.ended (.classified .chanVoice .noteCC))
        ∧ exec (.classify (.timecodeQuarterFrame n g)) s
          = .next (s.ended (.classified .systemCommon .timecodeQuarterFrame))
        ∧ exec (.classify (.songPositionPointer q g)) s
          = .next (s.ended (.classified .systemCommon .songPositionPointer))
        ∧ exec (.classify (.songSelect n g)) s = .next (s.ended (.classified .systemCommon .songSelect))
        ∧ exec (.classify (.tuneRequest g)) s = .next (s.ended (.classified .systemCommon .tuneRequest))
        ∧ exec (.classify (.timingClock g)) s = .next (s.ended (.classified .systemRealTime .timingClock))
        ∧ exec (.classify (.start g)) s = .next (s.ended (.classified .systemRealTime .start))
        ∧ exec (.classify (.stop g)) s = .next (s.ended (.classified .systemRealTime .stop))
        ∧ exec (.classify (.continue_ g)) s = .next (s.ended (.classified .systemRealTime .continue_))
        ∧ exec (.classify (.activeSensing g)) s = .next (s.ended (.classified .systemRealTime .activeSensing))
        ∧ exec (.classify (.systemReset g)) s = .next (s.ended (.classified .systemRealTime .systemReset))
        ∧ exec (.classify (.sysEx7 (.universal rt) d7 g)) s
          = .next (s.ended (.classified .sysEx .universalSysEx7))
        ∧ exec (.classify (.sysEx8 (.universal rt) d8 sid g)) s
          = .next (s.ended (.classified .sysEx .universalSysEx8))
        ∧ (id.wf s.params.registry = true → (∀ u, id ≠ .universal u) →
            exec (.classify (.sysEx7 id d7 g)) s = .next (s.ended (.classified .sysEx .sysEx7))
            ∧ exec (.classify (.sysEx8 id d8 sid g)) s = .next (s.ended (.classified .sysEx .sysEx8)))
        ∧ exec (.classify (.noOp g)) s = .next (s.ended (.classified .utility .noOp))
        ∧ exec (.classify (.jrClock t g)) s = .next (s.ended (.classified .utility .jrClock))
        ∧ exec (.classify (.jrTimestamp t g)) s = .next (s.ended (.classified .utility .jrTimestamp)))
    ∧ (∀ (e : Event) (s : State), e.wf s.params.registry = true →
          ∃ C T, exec (.classify e) s = .next (s.ended (.classified C T)) ∧ T ∈ typesOf C)
        ∧ ∀ (C D : Category) (T : EvType), T ∈ typesOf C → T ∈ typesOf D → C = D

/-- FILTER keeps, in order, the events its operation keeps; a type outside the category never matches (R372). -/
def Obligations.FilterKeepsWhatItsOperationKeeps : Prop :=
  ∀ (s : State) (es : List Event) (C : Category) (T : List EvType), (∀ e ∈ es, e.wf s.params.registry = true) →
    exec (.filter ⟨C, .only⟩ es) s = .next (s.ended (.events (es.filter fun e => catOf e = C)))
      ∧ exec (.filter ⟨C, .onlyTypes T⟩ es) s
        = .next (s.ended (.events (es.filter fun e => catOf e = C ∧ typeOf e ∈ T)))
      ∧ exec (.filter ⟨C, .keepTypes T⟩ es) s
        = .next (s.ended (.events (es.filter fun e => catOf e ≠ C ∨ typeOf e ∈ T)))
      ∧ exec (.filter ⟨C, .drop⟩ es) s = .next (s.ended (.events (es.filter fun e => catOf e ≠ C)))
      ∧ exec (.filter ⟨C, .dropTypes T⟩ es) s
        = .next (s.ended (.events (es.filter fun e => ¬(catOf e = C ∧ typeOf e ∈ T))))
      ∧ applyFilter ⟨C, .onlyTypes T⟩ es = applyFilter ⟨C, .onlyTypes (T.filter (· ∈ typesOf C))⟩ es
      ∧ applyFilter ⟨C, .keepTypes T⟩ es = applyFilter ⟨C, .keepTypes (T.filter (· ∈ typesOf C))⟩ es
      ∧ applyFilter ⟨C, .dropTypes T⟩ es = applyFilter ⟨C, .dropTypes (T.filter (· ∈ typesOf C))⟩ es

/-- The laws of the filter, of what FILTER answers (R373). -/
def Obligations.FilterLaws : Prop :=
  ∀ (s : State) (C : Category) (T : List EvType) (f h : Filter) (e : Event) (es es' : List Event),
    ((∀ e ∈ es, e.wf s.params.registry = true) →
        exec (.filter f es) s = .next (s.ended (.events (applyFilter f es))))
      ∧ applyFilter ⟨C, .onlyTypes (typesOf C)⟩ es = applyFilter ⟨C, .only⟩ es
      ∧ applyFilter ⟨C, .keepTypes (typesOf C)⟩ es = es
      ∧ applyFilter ⟨C, .dropTypes (typesOf C)⟩ es = applyFilter ⟨C, .drop⟩ es
      ∧ applyFilter ⟨C, .keepTypes T⟩ es = applyFilter ⟨C, .dropTypes ((typesOf C).filter (· ∉ T))⟩ es
      ∧ keep ⟨C, .drop⟩ e = !keep ⟨C, .only⟩ e
      ∧ keep ⟨C, .dropTypes T⟩ e = !keep ⟨C, .onlyTypes T⟩ e
      ∧ applyFilter f (es ++ es') = applyFilter f es ++ applyFilter f es'
      ∧ applyFilter f (applyFilter f es) = applyFilter f es
      ∧ applyFilter f (applyFilter h es) = applyFilter h (applyFilter f es)

end
end

