-- ==== Sys2Proof/Laws/Bits.lean ====
section
/-! SUPPORT. Laws of the bit fields: what is packed into a word is read back from it, and a word is what its fields pack
to; the data bytes and statuses of MIDI 1.0. -/

namespace Sys2Proof

/-! ### UMP words -/

@[simp] theorem mtOf_packWord (mt g st ch : U4) (a b : Byte) : mtOf (packWord mt g st ch a b) = mt := by
  unfold mtOf packWord; grind
@[simp] theorem grpOf_packWord (mt g st ch : U4) (a b : Byte) : grpOf (packWord mt g st ch a b) = g := by
  unfold grpOf packWord; grind
@[simp] theorem stOf_packWord (mt g st ch : U4) (a b : Byte) : stOf (packWord mt g st ch a b) = st := by
  unfold stOf packWord; grind
@[simp] theorem chOf_packWord (mt g st ch : U4) (a b : Byte) : chOf (packWord mt g st ch a b) = ch := by
  unfold chOf packWord; grind
@[simp] theorem byte2_packWord (mt g st ch : U4) (a b : Byte) : byte2 (packWord mt g st ch a b) = a := by
  unfold byte2 packWord; grind
@[simp] theorem byte3_packWord (mt g st ch : U4) (a b : Byte) : byte3 (packWord mt g st ch a b) = b := by
  unfold byte3 packWord; grind
@[simp] theorem byte1_packWord (mt g st ch : U4) (a b : Byte) :
    byte1 (packWord mt g st ch a b) = chanStatus st ch := by
  unfold byte1 packWord chanStatus; grind

@[simp] theorem mtOf_packStatus (mt g : U4) (s a b : Byte) : mtOf (packStatus mt g s a b) = mt := by
  unfold mtOf packStatus; grind
@[simp] theorem grpOf_packStatus (mt g : U4) (s a b : Byte) : grpOf (packStatus mt g s a b) = g := by
  unfold grpOf packStatus; grind
@[simp] theorem byte1_packStatus (mt g : U4) (s a b : Byte) : byte1 (packStatus mt g s a b) = s := by
  unfold byte1 packStatus; grind
@[simp] theorem byte2_packStatus (mt g : U4) (s a b : Byte) : byte2 (packStatus mt g s a b) = a := by
  unfold byte2 packStatus; grind
@[simp] theorem byte3_packStatus (mt g : U4) (s a b : Byte) : byte3 (packStatus mt g s a b) = b := by
  unfold byte3 packStatus; grind

@[simp] theorem mtOf_packLo16 (mt g st ch : U4) (v : U16) : mtOf (packLo16 mt g st ch v) = mt := by
  unfold mtOf packLo16; grind
@[simp] theorem grpOf_packLo16 (mt g st ch : U4) (v : U16) : grpOf (packLo16 mt g st ch v) = g := by
  unfold grpOf packLo16; grind
@[simp] theorem stOf_packLo16 (mt g st ch : U4) (v : U16) : stOf (packLo16 mt g st ch v) = st := by
  unfold stOf packLo16; grind
@[simp] theorem lo16_packLo16 (mt g st ch : U4) (v : U16) : lo16 (packLo16 mt g st ch v) = v := by
  unfold lo16 packLo16; grind

@[simp] theorem byte0_packBytes (a b c d : Byte) : byte0 (packBytes a b c d) = a := by
  unfold byte0 packBytes; grind
@[simp] theorem byte1_packBytes (a b c d : Byte) : byte1 (packBytes a b c d) = b := by
  unfold byte1 packBytes; grind
@[simp] theorem byte2_packBytes (a b c d : Byte) : byte2 (packBytes a b c d) = c := by
  unfold byte2 packBytes; grind
@[simp] theorem byte3_packBytes (a b c d : Byte) : byte3 (packBytes a b c d) = d := by
  unfold byte3 packBytes; grind

@[simp] theorem hi16_packHalves (h l : U16) : hi16 (packHalves h l) = h := by
  unfold hi16 packHalves; grind
@[simp] theorem lo16_packHalves (h l : U16) : lo16 (packHalves h l) = l := by
  unfold lo16 packHalves; grind

/-- A word 0 is what its fields pack to. -/
theorem packWord_fields (w : Word) :
    packWord (mtOf w) (grpOf w) (stOf w) (chOf w) (byte2 w) (byte3 w) = w := by
  unfold packWord mtOf grpOf stOf chOf byte2 byte3
  ext i hi
  simp
  grind

/-! ### Bytes of MIDI 1.0 -/

@[simp] theorem low7_byte (v : U7) : v.byte.low7 = v := by simp [U7.byte, Byte.low7]

@[simp] theorem isStatus_byte (v : U7) : isStatus v.byte = false := by
  have := v.isLt
  simp [isStatus, U7.byte]
  omega

theorem byte_low7 {b : Byte} (h : isStatus b = false) : b.low7.byte = b := by
  simp only [isStatus, decide_eq_false_iff_not, Nat.not_le] at h
  apply BitVec.eq_of_toNat_eq
  simp [U7.byte, Byte.low7]
  omega

@[simp] theorem asData_nil : asData [] = some [] := rfl

@[simp] theorem asData_map_byte (d : List U7) : asData (d.map U7.byte) = some d := by
  have hm : List.map (Byte.low7 ∘ U7.byte) d = d := by
    rw [show (Byte.low7 ∘ U7.byte) = id from funext fun v => low7_byte v, List.map_id]
  unfold asData
  rw [if_neg (by simp), List.map_map, hm]

/-- A list has a data reading exactly when no byte of it is a status byte, and then it is that reading's bytes. -/
theorem asData_eq_some {bs : List Byte} {d : List U7} (h : asData bs = some d) : bs = d.map U7.byte := by
  unfold asData at h
  split at h
  · cases h
  · rename_i hs
    simp only [Option.some.injEq] at h
    subst h
    rw [List.map_map]
    symm
    have : ∀ b ∈ bs, (U7.byte ∘ Byte.low7) b = b := by
      intro b hb
      apply byte_low7
      cases hb' : isStatus b with
      | false => rfl
      | true => exact absurd (List.any_eq_true.mpr ⟨b, hb, hb'⟩) hs
    calc bs.map (U7.byte ∘ Byte.low7) = bs.map id := List.map_congr_left this
      _ = bs := List.map_id bs

@[simp] theorem channel_chanStatus (nib ch : U4) : channel (chanStatus nib ch) = ch := by
  unfold channel chanStatus; grind

theorem toNat_chanStatus (nib ch : U4) : (chanStatus nib ch).toNat = nib.toNat * 16 + ch.toNat := by
  unfold chanStatus
  rw [BitVec.toNat_append, ← Nat.shiftLeft_add_eq_or_of_lt ch.isLt, Nat.shiftLeft_eq]

@[simp] theorem nibble_chanStatus (nib ch : U4) : nibble (chanStatus nib ch) = nib.toNat := by
  have := ch.isLt
  unfold nibble
  rw [toNat_chanStatus]
  omega

/-- A status byte of nibble 8 to F is a status byte. -/
theorem isStatus_chanStatus {nib : U4} (ch : U4) (h : 8 ≤ nib.toNat) : isStatus (chanStatus nib ch) = true := by
  simp only [isStatus, toNat_chanStatus, decide_eq_true_eq]
  omega

@[simp] theorem needOf_some (s : Byte) : needOf (some s) = need s := rfl
@[simp] theorem needOf_none : needOf none = some 0 := rfl

/-- A channel voice status has the length of its nibble (R96). -/
theorem need_chanStatus {nib : U4} (ch : U4) (h : 0x8 ≤ nib.toNat ∧ nib.toNat ≤ 0xE) :
    need (chanStatus nib ch) = some (if nib.toNat = 0xC ∨ nib.toNat = 0xD then 1 else 2) := by
  unfold need
  rw [nibble_chanStatus]
  generalize nib.toNat = k at h ⊢
  obtain ⟨h1, h2⟩ := h
  interval_cases k <;> rfl

@[simp] theorem join14_parts (v : U14) : join14 (lsb7 v) (msb7 v) = v := by
  unfold join14 lsb7 msb7
  ext i hi
  simp
  grind
@[simp] theorem lsb7_join14 (l m : U7) : lsb7 (join14 l m) = l := by
  unfold lsb7 join14; grind
@[simp] theorem msb7_join14 (l m : U7) : msb7 (join14 l m) = m := by
  unfold msb7 join14; grind

end Sys2Proof
end

