-- ==== Sys2Proof/Laws/Decode.lean ====
section
/-! SUPPORT. Laws of the operand reader: each `read` gives back what its `write` wrote and leaves what follows, and
reading two things in turn reads what was written in turn. -/

namespace Sys2Proof

/-- `r` reads `a` off a record that begins with `cs`, and leaves the rest. -/
def Reads {α : Type} (r : Reader α) (cs : List Nat) (a : α) : Prop :=
  ∀ rest, r (cs ++ rest) = .ok (a, rest)

theorem Reads.pure {α : Type} (a : α) : Reads (Pure.pure a : Reader α) [] a := fun _ => rfl

/-- Reading in turn. -/
theorem Reads.bind {α β : Type} {r : Reader α} {f : α → Reader β} {xs ys : List Nat} {a : α} {b : β}
    (h : Reads r xs a) (k : Reads (f a) ys b) : Reads (r >>= f) (xs ++ ys) b := by
  intro rest
  show (r (xs ++ ys ++ rest) >>= fun p => f p.1 p.2) = _
  rw [List.append_assoc, h]
  exact k rest

/-- Reading with nothing after it. -/
theorem Reads.map {α β : Type} {r : Reader α} {f : α → Reader β} {xs : List Nat} {a : α} {b : β}
    (h : Reads r xs a) (k : Reads (f a) [] b) : Reads (r >>= f) xs b := by
  simpa using h.bind k

theorem reads_cell (n : Nat) : Reads readCell [n] n := fun _ => rfl

/-- The next value decides what is read after it. -/
theorem Reads.cell {β : Type} {f : Nat → Reader β} {n : Nat} {ys : List Nat} {b : β} (k : Reads (f n) ys b) :
    Reads (readCell >>= f) (n :: ys) b :=
  (reads_cell n).bind k

theorem reads_bits {n : Nat} (v : BitVec n) : Reads (readBits n) [v.toNat] v := by
  refine Reads.map (reads_cell v.toNat) ?_
  rw [if_pos v.isLt, BitVec.ofNat_toNat, BitVec.setWidth_eq]
  exact Reads.pure v

theorem Reads.bits {n : Nat} {β : Type} {f : BitVec n → Reader β} (v : BitVec n) {ys : List Nat} {b : β}
    (k : Reads (f v) ys b) : Reads (readBits n >>= f) (v.toNat :: ys) b :=
  (reads_bits v).bind k

theorem reads_bool (b : Bool) : Reads readBool [writeBool b] b := by
  cases b <;> exact fun _ => rfl

theorem reads_many {α : Type} {r : Reader α} {w : α → List Nat} :
    ∀ l : List α, (∀ a ∈ l, Reads r (w a) a) → Reads (readMany r l.length) (l.flatMap w) l
  | [], _ => Reads.pure []
  | a :: l, h => by
    rw [List.flatMap_cons]
    exact (h a (by simp)).bind ((reads_many l fun x hx => h x (by simp [hx])).map (Reads.pure _))

theorem reads_list {α : Type} {r : Reader α} {w : α → List Nat} (l : List α) (h : ∀ a ∈ l, Reads r (w a) a) :
    Reads (readList r) (writeList w l) l :=
  Reads.cell (reads_many l h)

theorem reads_bitsList {n : Nat} (l : List (BitVec n)) : Reads (readList (readBits n)) (writeList writeBits l) l :=
  reads_list l fun a _ => reads_bits a

theorem reads_rat (x : Rat) : Reads readRat (writeRat x) x := by
  refine (reads_bool _).bind (Reads.cell ((reads_cell _).map ?_))
  have hd : x.den - 1 + 1 = x.den := Nat.succ_pred_eq_of_pos x.den_pos
  have hn : (if decide (x.num < 0) = true then -(x.num.natAbs : Int) else x.num.natAbs) = x.num := by
    by_cases h : x.num < 0
    · rw [if_pos (decide_eq_true h), Int.ofNat_natAbs_of_nonpos h.le, neg_neg]
    · rw [if_neg (by simpa using h), Int.natAbs_of_nonneg (not_lt.mp h)]
  rw [hd, hn, Rat.mkRat_self]
  exact Reads.pure x

theorem reads_dual {L H : Nat} (d : Dual L H) : Reads (readDual L H) (writeDual d) d := by
  cases d with
  | m1 v => exact (reads_bool false).bind ((reads_bits v).map (Reads.pure _))
  | m2 u => exact (reads_bool true).bind ((reads_bits u).map (Reads.pure _))

theorem reads_attr (a : Attr) : Reads readAttr (writeAttr a) a :=
  Reads.bits _ ((reads_bits _).map (Reads.pure _))

theorem reads_bank (b : Option (U7 × U7)) : Reads readBank (writeBank b) b := by
  cases b with
  | none => exact (reads_bool false).map (Reads.pure _)
  | some p => exact (reads_bool true).bind (Reads.bits _ ((reads_bits _).map (Reads.pure _)))

theorem reads_pnc (c : PNC) : Reads readPNC (writePNC c) c := by
  cases c with
  | registered i => exact (reads_bool false).bind ((reads_bits _).map (Reads.pure _))
  | assignable i => exact (reads_bool true).bind ((reads_bits _).map (Reads.pure _))

theorem reads_sysExID (i : SysExID) : Reads readSysExID (writeSysExID i) i := by
  cases i with
  | mfr1 b => exact Reads.cell ((reads_bits _).map (Reads.pure _))
  | mfr3 b1 b2 => exact Reads.cell (Reads.bits _ ((reads_bits _).map (Reads.pure _)))
  | universal rt => exact Reads.cell ((reads_bool _).map (Reads.pure _))

theorem reads_chG (f : U4 → U4 → Event) (ch g : U4) : Reads (readChG f) (writeChG ch g) (f ch g) :=
  Reads.bits _ ((reads_bits _).map (Reads.pure _))

theorem reads_g (f : U4 → Event) (g : U4) : Reads (readG f) [g.toNat] (f g) :=
  (reads_bits _).map (Reads.pure _)

theorem reads_event (e : Event) : Reads readEvent (writeEvent e) e := by
  cases e with
  | noteOn n v a ch g =>
    exact Reads.cell (Reads.bits _ (by
      rw [List.append_assoc]; exact (reads_dual v).bind ((reads_attr a).bind (reads_chG _ ch g))))
  | noteOff n v a ch g =>
    exact Reads.cell (Reads.bits _ (by
      rw [List.append_assoc]; exact (reads_dual v).bind ((reads_attr a).bind (reads_chG _ ch g))))
  | notePressure n v ch g => exact Reads.cell (Reads.bits _ ((reads_dual v).bind (reads_chG _ ch g)))
  | cc c v ch g => exact Reads.cell (Reads.bits _ ((reads_dual v).bind (reads_chG _ ch g)))
  | programChange p b ch g => exact Reads.cell (Reads.bits _ ((reads_bank b).bind (reads_chG _ ch g)))
  | pressure v ch g => exact Reads.cell ((reads_dual v).bind (reads_chG _ ch g))
  | pitchBend v ch g => exact Reads.cell ((reads_dual v).bind (reads_chG _ ch g))
  | notePitchBend n v ch g => exact Reads.cell (Reads.bits _ (Reads.bits _ (reads_chG _ ch g)))
  | noteCC n c v ch g =>
    exact Reads.cell (Reads.bits _ ((reads_pnc c).bind (Reads.bits _ (reads_chG _ ch g))))
  | timecodeQuarterFrame d g => exact Reads.cell (Reads.bits _ (reads_g _ g))
  | songPositionPointer b g => exact Reads.cell (Reads.bits _ (reads_g _ g))
  | songSelect n g => exact Reads.cell (Reads.bits _ (reads_g _ g))
  | tuneRequest g => exact Reads.cell (reads_g _ g)
  | timingClock g => exact Reads.cell (reads_g _ g)
  | start g => exact Reads.cell (reads_g _ g)
  | stop g => exact Reads.cell (reads_g _ g)
  | continue_ g => exact Reads.cell (reads_g _ g)
  | activeSensing g => exact Reads.cell (reads_g _ g)
  | systemReset g => exact Reads.cell (reads_g _ g)
  | sysEx7 id data g =>
    exact Reads.cell (by
      rw [List.append_assoc]
      exact (reads_sysExID id).bind ((reads_bitsList data).bind (reads_g _ g)))
  | sysEx8 id data sid g =>
    exact Reads.cell (by
      rw [List.append_assoc]
      exact (reads_sysExID id).bind ((reads_bitsList data).bind (Reads.bits _ (reads_g _ g))))
  | noOp g => exact Reads.cell (reads_g _ g)
  | jrClock t g => exact Reads.cell (Reads.bits _ (reads_g _ g))
  | jrTimestamp t g => exact Reads.cell (Reads.bits _ (reads_g _ g))

/-- A member of a fixed list is read back from its place. -/
theorem reads_category (C : Category) : Reads (readOneOf categories) (writeOneOf categories C) C := by
  cases C <;> exact fun _ => rfl

theorem reads_evType (T : EvType) : Reads (readOneOf evTypes) (writeOneOf evTypes T) T := by
  cases T <;> exact fun _ => rfl

theorem reads_types (T : List EvType) : Reads (readList (readOneOf evTypes)) (writeTypes T) T :=
  reads_list T fun a _ => reads_evType a

theorem reads_filter (f : Filter) : Reads readFilter (writeFilter f) f := by
  obtain ⟨C, op⟩ := f
  refine (reads_category C).bind ?_
  cases op with
  | only => exact Reads.cell (Reads.pure _)
  | onlyTypes T => exact Reads.cell ((reads_types T).map (Reads.pure _))
  | keepTypes T => exact Reads.cell ((reads_types T).map (Reads.pure _))
  | drop => exact Reads.cell (Reads.pure _)
  | dropTypes T => exact Reads.cell ((reads_types T).map (Reads.pure _))

theorem reads_protocol (P : Protocol) : Reads readProtocol [writeProtocol P] P := by
  cases P <;> exact fun _ => rfl

/-- A record whose operands are read to its end decodes. -/
theorem decodeCommand_of_reads {op : Nat} {cs : List Nat} {i : Instr} (h : Reads (readOperands op) cs i) :
    decodeCommand (op :: cs) = .ok i := by
  have := h []
  rw [List.append_nil] at this
  unfold decodeCommand readCommand
  simp only [this]

theorem noData_ok {d : List U7} {j i : Instr} : noData d j = .ok i ↔ d = [] ∧ i = j := by
  rcases d with _ | ⟨_, _⟩ <;> simp [noData, @eq_comm _ i]

theorem oneData_ok {d : List U7} {f : U7 → Instr} {i : Instr} :
    oneData d f = .ok i ↔ ∃ a, d = [a] ∧ i = f a := by
  rcases d with _ | ⟨_, _ | ⟨_, _⟩⟩ <;> simp [oneData, @eq_comm _ i]

theorem twoData_ok {d : List U7} {f : U7 → U7 → Instr} {i : Instr} :
    twoData d f = .ok i ↔ ∃ a b, d = [a, b] ∧ i = f a b := by
  rcases d with _ | ⟨_, _ | ⟨_, _ | ⟨_, _⟩⟩⟩ <;> simp [twoData, @eq_comm _ i]

/-- A status byte and its data bytes reach the row decoder of that status (R95). -/
theorem decodeMidi1_status {c : Nat} {t : U64} {s : Byte} (d : List U7) (h : isStatus s = true) :
    decodeMidi1 c t (s :: d.map U7.byte) = decodeM1Status c t s d := by
  unfold decodeMidi1
  simp only [h, if_true, asData_map_byte]

/-- A channel voice message decodes to the row of its nibble (R94, R95). -/
theorem decode_chanFrame (c : Nat) (t : U64) {nib : U4} (ch : U4) (d : List U7)
    (h : 0x8 ≤ nib.toNat ∧ nib.toNat ≤ 0xE) :
    decode (m1Frame c t (chanStatus nib ch) d) = decodeM1Voice c t nib.toNat ch d := by
  unfold m1Frame decode
  simp only
  rw [decodeMidi1_status d (isStatus_chanStatus ch h.1)]
  unfold decodeM1Status
  rw [nibble_chanStatus, channel_chanStatus, if_neg (by omega)]

/-- A System message decodes to the row of its status byte (R95). -/
theorem decode_systemFrame (c : Nat) (t : U64) {b : Byte} (d : List U7) (h : 0xF0 ≤ b.toNat) :
    decode (m1Frame c t b d) = decodeM1System c t (channel b).toNat d := by
  have hb := b.isLt
  unfold m1Frame decode
  simp only
  rw [decodeMidi1_status d (by simp [isStatus]; omega)]
  unfold decodeM1Status
  rw [if_pos (by unfold nibble; omega)]

/-! ### UMP messages by message type (R99, R100) -/

theorem decodeUmp_mt0 {w0 : Word} (h : mtOf w0 = 0x0) : decodeUmp [w0] = decodeMt0 w0 := by
  unfold decodeUmp; simp only [h]; rfl

theorem decodeUmp_mt1 {w0 : Word} (h : mtOf w0 = 0x1) : decodeUmp [w0] = decodeMt1 w0 := by
  unfold decodeUmp; simp only [h]; rfl

theorem decodeUmp_mt2 {w0 : Word} (h : mtOf w0 = 0x2) : decodeUmp [w0] = decodeMt2 w0 := by
  unfold decodeUmp; simp only [h]; rfl

theorem decodeUmp_mt3 {w0 : Word} (h : mtOf w0 = 0x3) (w1 : Word) (rest : List Word) :
    decodeUmp (w0 :: w1 :: rest) = decodeMt3 w0 w1 rest := by
  unfold decodeUmp; simp only [h]; rfl

theorem decodeUmp_mt4 {w0 : Word} (h : mtOf w0 = 0x4) (w1 : Word) : decodeUmp [w0, w1] = decodeMt4 w0 w1 := by
  unfold decodeUmp; simp only [h]; rfl

theorem decodeUmp_mt5 {w0 : Word} (h : mtOf w0 = 0x5) (w1 w2 w3 : Word) (rest : List Word) :
    decodeUmp (w0 :: w1 :: w2 :: w3 :: rest) = decodeMt5 w0 w1 w2 w3 rest := by
  unfold decodeUmp; simp only [h]; rfl

/-- Bit 0 of the flags byte is bank valid (R105). -/
@[simp] theorem bankFlags_bankValid (b : Bool) : (bankFlags b)[0] = b := by
  cases b <;> rfl

end Sys2Proof
end

