-- ==== Sys2Proof/Laws/State.lean ====
section
/-! SUPPORT. One lemma for each field of each update of a state or of a parser context, and what the named next states of
`Safety` are in terms of the shared operations. -/

namespace Sys2Proof.Machine

/-! ### Recording an outcome -/

@[simp] theorem State.record_params (s : State) (r : Result) : (s.record r).params = s.params := rfl
@[simp] theorem State.record_ctxs (s : State) (r : Result) : (s.record r).ctxs = s.ctxs := rfl
@[simp] theorem State.record_port (s : State) (r : Result) : (s.record r).port = s.port := rfl
@[simp] theorem State.record_outcomes (s : State) (r : Result) :
    (s.record r).outcomes = s.outcomes ++ [r] := rfl

@[simp] theorem State.ended_params (s : State) (r : Result) : (s.ended r).params = s.params := rfl
@[simp] theorem State.ended_ctxs (s : State) (r : Result) : (s.ended r).ctxs = s.ctxs := rfl
@[simp] theorem State.ended_port (s : State) (r : Result) : (s.ended r).port = s.port := rfl
@[simp] theorem State.ended_outcomes (s : State) (r : Result) : (s.ended r).outcomes = s.outcomes ++ [r] := rfl
@[simp] theorem State.ended_nCtx (s : State) (r : Result) : (s.ended r).nCtx = s.nCtx := rfl

@[simp] theorem State.record_eq_ended (s : State) (r : Result) : s.record r = s.ended r := rfl
@[simp] theorem State.refuse_eq_ended (s : State) : s.refuse = s.ended .refused := rfl
@[simp] theorem State.raise_eq_ended (s : State) (e : Err) : s.raise e = s.ended (.err e) := rfl

/-- An operation ends in one way only: the outcome it records is its own. -/
@[simp] theorem State.ended_inj {s : State} {r q : Result} : s.ended r = s.ended q ↔ r = q := by
  constructor
  · intro h
    simpa using congrArg State.outcomes h
  · rintro rfl
    rfl

/-! ### Writing a context -/

@[simp] theorem State.setCtx_params (s : State) (c : Nat) (S : Ctx) : (s.setCtx c S).params = s.params := rfl
@[simp] theorem State.setCtx_ctxs (s : State) (c : Nat) (S : Ctx) :
    (s.setCtx c S).ctxs = s.ctxs.set c S := rfl
@[simp] theorem State.setCtx_port (s : State) (c : Nat) (S : Ctx) : (s.setCtx c S).port = s.port := rfl
@[simp] theorem State.setCtx_outcomes (s : State) (c : Nat) (S : Ctx) :
    (s.setCtx c S).outcomes = s.outcomes := rfl

@[simp] theorem State.emitted_params (s : State) (c : Nat) (S : Ctx) (t : U64) (its : List Item) :
    (s.emitted c S t its).params = s.params := rfl
@[simp] theorem State.emitted_ctxs (s : State) (c : Nat) (S : Ctx) (t : U64) (its : List Item) :
    (s.emitted c S t its).ctxs = s.ctxs.set c S := rfl
@[simp] theorem State.emitted_port (s : State) (c : Nat) (S : Ctx) (t : U64) (its : List Item) :
    (s.emitted c S t its).port = s.port := rfl
@[simp] theorem State.emitted_outcomes (s : State) (c : Nat) (S : Ctx) (t : U64) (its : List Item) :
    (s.emitted c S t its).outcomes = s.outcomes ++ [.items (its.map fun it => (t, it))] := rfl

/-- Writing back the record a context has changes nothing. -/
theorem State.emitted_self {s : State} {c : Nat} {S : Ctx} (h : s.ctxs[c]? = some S) (t : U64) (its : List Item) :
    s.emitted c S t its = s.ended (.items (its.map fun it => (t, it))) := by
  obtain ⟨hc, hS⟩ := List.getElem?_eq_some_iff.mp h
  have : s.ctxs.set c S = s.ctxs := by rw [← hS, List.set_getElem_self]
  unfold State.emitted State.ended
  rw [this]

/-! ### Placing an instruction at the port -/

@[simp] theorem State.withFetchWord_params (s : State) (n w : Nat) : (s.withFetchWord n w).params = s.params := rfl
@[simp] theorem State.withFetchWord_ctxs (s : State) (n w : Nat) : (s.withFetchWord n w).ctxs = s.ctxs := rfl
@[simp] theorem State.withFetchWord_port (s : State) (n w : Nat) :
    (s.withFetchWord n w).port = tableFrame n w :: s.port := rfl
@[simp] theorem State.withFetchWord_outcomes (s : State) (n w : Nat) :
    (s.withFetchWord n w).outcomes = s.outcomes := rfl

/-- An operation that leaves its context as it was changes nothing but the outcomes. -/
theorem State.emitted_unchanged {s : State} {c : Nat} {S : Ctx} (h : s.ctxs[c]? = some S) (t : U64) (its : List Item) :
    s.emitted c S t its = s.ended (.items (its.map fun it => (t, it))) := by
  obtain ⟨h1, h2⟩ := List.getElem?_eq_some_iff.mp h
  unfold State.emitted State.ended
  rw [← h2, List.set_getElem_self]

/-! ### The fields of a parser context -/

@[simp] theorem Ctx.openSysEx_rs (S : Ctx) : S.openSysEx.rs = S.rs := rfl
@[simp] theorem Ctx.openSysEx_pend (S : Ctx) : S.openSysEx.pend = S.pend := rfl
@[simp] theorem Ctx.openSysEx_pd (S : Ctx) : S.openSysEx.pd = S.pd := rfl
@[simp] theorem Ctx.openSysEx_sx (S : Ctx) : S.openSysEx.sx = true := rfl
@[simp] theorem Ctx.openSysEx_acc (S : Ctx) : S.openSysEx.acc = [] := rfl
@[simp] theorem Ctx.openSysEx_ovf (S : Ctx) : S.openSysEx.ovf = false := rfl

@[simp] theorem Ctx.endSysEx_rs (S : Ctx) : S.endSysEx.rs = S.rs := rfl
@[simp] theorem Ctx.endSysEx_pend (S : Ctx) : S.endSysEx.pend = S.pend := rfl
@[simp] theorem Ctx.endSysEx_pd (S : Ctx) : S.endSysEx.pd = S.pd := rfl
@[simp] theorem Ctx.endSysEx_sx (S : Ctx) : S.endSysEx.sx = false := rfl
@[simp] theorem Ctx.endSysEx_acc (S : Ctx) : S.endSysEx.acc = [] := rfl
@[simp] theorem Ctx.endSysEx_ovf (S : Ctx) : S.endSysEx.ovf = false := rfl

@[simp] theorem Ctx.expect_rs (S : Ctx) (b : Byte) : (S.expect b).rs = S.rs := rfl
@[simp] theorem Ctx.expect_pend (S : Ctx) (b : Byte) : (S.expect b).pend = some b := rfl
@[simp] theorem Ctx.expect_pd (S : Ctx) (b : Byte) : (S.expect b).pd = [] := rfl
@[simp] theorem Ctx.expect_sx (S : Ctx) (b : Byte) : (S.expect b).sx = S.sx := rfl
@[simp] theorem Ctx.expect_acc (S : Ctx) (b : Byte) : (S.expect b).acc = S.acc := rfl
@[simp] theorem Ctx.expect_ovf (S : Ctx) (b : Byte) : (S.expect b).ovf = S.ovf := rfl

@[simp] theorem Ctx.endMessage_rs (S : Ctx) : S.endMessage.rs = S.rs := rfl
@[simp] theorem Ctx.endMessage_pend (S : Ctx) : S.endMessage.pend = none := rfl
@[simp] theorem Ctx.endMessage_pd (S : Ctx) : S.endMessage.pd = [] := rfl
@[simp] theorem Ctx.endMessage_sx (S : Ctx) : S.endMessage.sx = S.sx := rfl
@[simp] theorem Ctx.endMessage_acc (S : Ctx) : S.endMessage.acc = S.acc := rfl
@[simp] theorem Ctx.endMessage_ovf (S : Ctx) : S.endMessage.ovf = S.ovf := rfl

@[simp] theorem Ctx.running_rs (S : Ctx) (r : Option Byte) : (S.running r).rs = r := rfl
@[simp] theorem Ctx.running_pend (S : Ctx) (r : Option Byte) : (S.running r).pend = S.pend := rfl
@[simp] theorem Ctx.running_pd (S : Ctx) (r : Option Byte) : (S.running r).pd = S.pd := rfl
@[simp] theorem Ctx.running_sx (S : Ctx) (r : Option Byte) : (S.running r).sx = S.sx := rfl
@[simp] theorem Ctx.running_acc (S : Ctx) (r : Option Byte) : (S.running r).acc = S.acc := rfl
@[simp] theorem Ctx.running_ovf (S : Ctx) (r : Option Byte) : (S.running r).ovf = S.ovf := rfl

@[simp] theorem Ctx.append_rs (m : Option Nat) (S : Ctx) (b : U7) : (S.append m b).rs = S.rs := by
  rcases m with _ | m
  · rfl
  · simp only [Ctx.append]; split <;> rfl
@[simp] theorem Ctx.append_pend (m : Option Nat) (S : Ctx) (b : U7) : (S.append m b).pend = S.pend := by
  rcases m with _ | m
  · rfl
  · simp only [Ctx.append]; split <;> rfl
@[simp] theorem Ctx.append_pd (m : Option Nat) (S : Ctx) (b : U7) : (S.append m b).pd = S.pd := by
  rcases m with _ | m
  · rfl
  · simp only [Ctx.append]; split <;> rfl
@[simp] theorem Ctx.append_sx (m : Option Nat) (S : Ctx) (b : U7) : (S.append m b).sx = S.sx := by
  rcases m with _ | m
  · rfl
  · simp only [Ctx.append]; split <;> rfl

@[simp] theorem quiet_rs (r : Option Byte) : (quiet r).rs = r := rfl
@[simp] theorem quiet_pend (r : Option Byte) : (quiet r).pend = none := rfl
@[simp] theorem quiet_pd (r : Option Byte) : (quiet r).pd = [] := rfl
@[simp] theorem quiet_sx (r : Option Byte) : (quiet r).sx = false := rfl
@[simp] theorem quiet_acc (r : Option Byte) : (quiet r).acc = [] := rfl
@[simp] theorem quiet_ovf (r : Option Byte) : (quiet r).ovf = false := rfl

/-- The reset values of R42 satisfy the invariants. -/
theorem Ctx.reset_inv (max : Option Nat) : Ctx.reset.Inv max where
  rsRange := nofun
  pendRange := nofun
  pdShort := ⟨0, rfl, .inr rfl⟩
  accShort := fun _ _ => Nat.zero_le _
  ovfBounded := fun _ => rfl
  sxNoPend := fun _ => rfl
  pendIsRunning := nofun
  noPendNoData := fun _ => rfl
  noSxNoAcc := fun _ => ⟨rfl, rfl⟩

end Sys2Proof.Machine
end

