-- ==== Sys2Proof/Laws/Ops.lean ====
section
/-! SUPPORT. One lemma for each shared operation, saying everything it can do: how a guarded and a finished operation end,
and what an operation on a context leaves. -/

namespace Sys2Proof.Machine

/-- How an operation that may raise an error ends. -/
def resultOr {α : Type} (ok : α → Result) : Except Err α → Result
  | .ok a => ok a
  | .error e => .err e

@[simp] theorem resultOr_ok {α : Type} (ok : α → Result) (a : α) : resultOr ok (.ok a) = ok a := rfl
@[simp] theorem resultOr_error {α : Type} (ok : α → Result) (e : Err) : resultOr ok (.error e) = .err e := rfl

@[simp] theorem State.finish_eq_ended {α : Type} (s : State) (ok : α → Result) (x : Except Err α) :
    s.finish ok x = s.ended (resultOr ok x) := by
  cases x <;> rfl

@[simp] theorem State.guarded_eq_ended (s : State) (b : Bool) (r : Result) :
    s.guarded b (s.ended r) = s.ended (if b then r else .refused) := by
  cases b <;> rfl

/-- A checked operation that may raise an error. -/
theorem State.guarded_finish {α : Type} (s : State) (b : Bool) (ok : α → Result) (x : Except Err α) :
    s.guarded b (s.finish ok x) = s.ended (if b then resultOr ok x else .refused) := by
  rw [State.finish_eq_ended, State.guarded_eq_ended]

/-- A checked operation that never fails. -/
theorem State.guarded_record (s : State) (b : Bool) (r : Result) :
    s.guarded b (s.record r) = s.ended (if b then r else .refused) :=
  State.guarded_eq_ended s b r

@[simp] theorem State.decoded_eq_ended (s : State) (x : Except Err Event) :
    s.decoded x = s.ended (eventOr x) := by
  cases x <;> rfl

@[simp] theorem resultOr_event (x : Except Err Event) : resultOr .event x = eventOr x := by
  cases x <;> rfl

/-- A context exists exactly when its index is below `N_CTX`. -/
theorem State.lt_nCtx_iff {s : State} {c : Nat} : c < s.nCtx ↔ ∃ S, s.ctxs[c]? = some S := by
  constructor
  · exact fun h => ⟨_, List.getElem?_eq_getElem h⟩
  · rintro ⟨S, h⟩
    exact (List.getElem?_eq_some_iff.mp h).1

theorem State.getElem?_eq_none_of_le {s : State} {c : Nat} (h : s.nCtx ≤ c) : s.ctxs[c]? = none :=
  List.getElem?_eq_none h

theorem State.onCtx_some {s : State} {c : Nat} {S : Ctx} (h : s.ctxs[c]? = some S) (f : Ctx → Result × Ctx) :
    s.onCtx c f = { s with ctxs := s.ctxs.set c (f S).2, outcomes := s.outcomes ++ [(f S).1] } := by
  unfold State.onCtx
  rw [h]
  rfl

theorem State.onCtx_none {s : State} {c : Nat} (h : s.ctxs[c]? = none) (f : Ctx → Result × Ctx) :
    s.onCtx c f = s.ended .refused := by
  unfold State.onCtx
  rw [h]
  rfl

/-- FEED on a context that exists. -/
theorem feed_some {s : State} {c : Nat} {S : Ctx} (h : s.ctxs[c]? = some S) (t : U64) (bs : List Byte) :
    feed c t bs s = s.emitted c (feedBytes s.params (s.params.parserGroup c) bs S).2 t
      (feedBytes s.params (s.params.parserGroup c) bs S).1 :=
  State.onCtx_some h _

/-- FEED on a context that does not exist. -/
theorem feed_none {s : State} {c : Nat} (h : s.ctxs[c]? = none) (t : U64) (bs : List Byte) :
    feed c t bs s = s.ended .refused :=
  State.onCtx_none h _

theorem receive_some {s : State} {c : Nat} {S : Ctx} (h : s.ctxs[c]? = some S) (t : U64) (b : Byte) (d : List U7) :
    receive c t b d s
      = s.emitted c (feedBytes s.params (s.params.parserGroup c) (b :: d.map U7.byte) S).2 t
        (feedBytes s.params (s.params.parserGroup c) (b :: d.map U7.byte) S).1 :=
  feed_some h _ _

end Sys2Proof.Machine
end

