-- ==== Sys2Proof/Laws/Exec.lean ====
section
/-! SUPPORT. What each instruction does, one lemma each: how it ends, in terms of the value its rule computes. Then what
any instruction can do, said once: a pure one ends with an outcome that its operands and the parameters fix; one
that names a context is one operation on that context. Frames and invariants follow from those. -/

namespace Sys2Proof.Machine

/-! ### Commands -/

theorem exec_reset (c : Nat) (s : State) : exec (.reset c) s = .next (s.onCtx c fun _ => (.done, Ctx.reset)) := rfl

theorem exec_feed (c : Nat) (t : U64) (bs : List Byte) (s : State) :
    exec (.feed c t bs) s = .next (feed c t bs s) := rfl

theorem exec_encM1 (e : Event) (s : State) :
    exec (.encM1 e) s
      = .next (s.ended (if admitsEvent s.params.registry e then resultOr .bytes (enc1 e) else .refused)) :=
  congrArg Host.Outcome.next (State.guarded_finish ..)

theorem exec_encUmp (e : Event) (P : Protocol) (s : State) :
    exec (.encUmp e P) s
      = .next (s.ended (if admitsEvent s.params.registry e then resultOr .words (encUmp e P) else .refused)) :=
  congrArg Host.Outcome.next (State.guarded_finish ..)

theorem exec_decM1 (bs : List Byte) (g : U4) (s : State) :
    exec (.decM1 bs g) s
      = .next (s.ended (eventOr (decM1 s.params bs g))) :=
  congrArg Host.Outcome.next (State.decoded_eq_ended ..)

theorem exec_decUmp (ws : List Word) (s : State) :
    exec (.decUmp ws) s
      = .next (s.ended (eventOr (decUmp s.params ws))) :=
  congrArg Host.Outcome.next (State.decoded_eq_ended ..)

theorem exec_makeUint (N v : Nat) (s : State) :
    exec (.makeUint N v) s
      = .next (s.ended (if isUintWidth N then resultOr (.uint N) (makeUint N v) else .refused)) :=
  congrArg Host.Outcome.next (State.guarded_finish ..)

theorem exec_scale (v N M : Nat) (s : State) :
    exec (.scale v N M) s
      = .next (s.ended (if isScaleWidth N && isScaleWidth M && isUint v N then .uint M (scaleNat v N M)
        else .refused)) :=
  congrArg Host.Outcome.next (State.guarded_record ..)

theorem exec_toBipolar (v N : Nat) (s : State) :
    exec (.toBipolar v N) s
      = .next (s.ended (if isScaleWidth N && isUint v N then .rational (toBipolar v N) else .refused)) :=
  congrArg Host.Outcome.next (State.guarded_record ..)

theorem exec_fromBipolar (x : Rat) (N : Nat) (s : State) :
    exec (.fromBipolar x N) s
      = .next (s.ended (if isScaleWidth N then resultOr (.uint N) (fromBipolar x N) else .refused)) :=
  congrArg Host.Outcome.next (State.guarded_finish ..)

theorem exec_toUnipolar (v N : Nat) (s : State) :
    exec (.toUnipolar v N) s
      = .next (s.ended (if isScaleWidth N && isUint v N then .rational (toUnipolar v N) else .refused)) :=
  congrArg Host.Outcome.next (State.guarded_record ..)

theorem exec_fromUnipolar (x : Rat) (N : Nat) (s : State) :
    exec (.fromUnipolar x N) s
      = .next (s.ended (if isScaleWidth N then resultOr (.uint N) (fromUnipolar x N) else .refused)) :=
  congrArg Host.Outcome.next (State.guarded_finish ..)

theorem exec_sysexId (bs : List Byte) (w : Nat) (s : State) :
    exec (.sysexId bs w) s
      = .next (s.ended (if w == 7 || w == 8 then
          resultOr (fun a => .sysexId a.1 a.2) (resolveId s.params.registry bs w)
        else .refused)) :=
  congrArg Host.Outcome.next (State.guarded_finish ..)

theorem exec_classify (e : Event) (s : State) :
    exec (.classify e) s
      = .next (s.ended (if admitsEvent s.params.registry e then .classified (catOf e) (typeOf e) else .refused)) :=
  congrArg Host.Outcome.next (State.guarded_record ..)

theorem exec_filter (f : Filter) (es : List Event) (s : State) :
    exec (.filter f es) s
      = .next (s.ended (if es.all (admitsEvent s.params.registry) then .events (applyFilter f es) else .refused)) :=
  congrArg Host.Outcome.next (State.guarded_record ..)

/-! ### MIDI 1.0 rows -/

theorem exec_m1NoteOff (c : Nat) (t : U64) (ch : U4) (note velocity : U7) (s : State) :
    exec (.m1NoteOff c t ch note velocity) s = .next (receive c t (chanStatus 0x8 ch) [note, velocity] s) := rfl

theorem exec_m1NoteOn (c : Nat) (t : U64) (ch : U4) (note velocity : U7) (s : State) :
    exec (.m1NoteOn c t ch note velocity) s = .next (receive c t (chanStatus 0x9 ch) [note, velocity] s) := rfl

theorem exec_m1NotePressure (c : Nat) (t : U64) (ch : U4) (note amount : U7) (s : State) :
    exec (.m1NotePressure c t ch note amount) s = .next (receive c t (chanStatus 0xA ch) [note, amount] s) := rfl

theorem exec_m1Cc (c : Nat) (t : U64) (ch : U4) (controller value : U7) (s : State) :
    exec (.m1Cc c t ch controller value) s = .next (receive c t (chanStatus 0xB ch) [controller, value] s) := rfl

theorem exec_m1ProgramChange (c : Nat) (t : U64) (ch : U4) (program : U7) (s : State) :
    exec (.m1ProgramChange c t ch program) s = .next (receive c t (chanStatus 0xC ch) [program] s) := rfl

theorem exec_m1Pressure (c : Nat) (t : U64) (ch : U4) (amount : U7) (s : State) :
    exec (.m1Pressure c t ch amount) s = .next (receive c t (chanStatus 0xD ch) [amount] s) := rfl

theorem exec_m1PitchBend (c : Nat) (t : U64) (ch : U4) (lsb msb : U7) (s : State) :
    exec (.m1PitchBend c t ch lsb msb) s = .next (receive c t (chanStatus 0xE ch) [lsb, msb] s) := rfl

theorem exec_m1SysExStart (c : Nat) (t : U64) (body : List U7) (s : State) :
    exec (.m1SysExStart c t body) s = .next (receive c t 0xF0 body s) := rfl

theorem exec_m1TimecodeQuarterFrame (c : Nat) (t : U64) (dataByte : U7) (s : State) :
    exec (.m1TimecodeQuarterFrame c t dataByte) s = .next (receive c t 0xF1 [dataByte] s) := rfl

theorem exec_m1SongPositionPointer (c : Nat) (t : U64) (lsb msb : U7) (s : State) :
    exec (.m1SongPositionPointer c t lsb msb) s = .next (receive c t 0xF2 [lsb, msb] s) := rfl

theorem exec_m1SongSelect (c : Nat) (t : U64) (number : U7) (s : State) :
    exec (.m1SongSelect c t number) s = .next (receive c t 0xF3 [number] s) := rfl

theorem exec_m1ReservedF4 (c : Nat) (t : U64) (s : State) :
    exec (.m1ReservedF4 c t) s = .next (receive c t 0xF4 [] s) := rfl

theorem exec_m1ReservedF5 (c : Nat) (t : U64) (s : State) :
    exec (.m1ReservedF5 c t) s = .next (receive c t 0xF5 [] s) := rfl

theorem exec_m1TuneRequest (c : Nat) (t : U64) (s : State) :
    exec (.m1TuneRequest c t) s = .next (receive c t 0xF6 [] s) := rfl

theorem exec_m1Eox (c : Nat) (t : U64) (s : State) :
    exec (.m1Eox c t) s = .next (receive c t 0xF7 [] s) := rfl

theorem exec_m1TimingClock (c : Nat) (t : U64) (s : State) :
    exec (.m1TimingClock c t) s = .next (receive c t 0xF8 [] s) := rfl

theorem exec_m1ReservedF9 (c : Nat) (t : U64) (s : State) :
    exec (.m1ReservedF9 c t) s = .next (receive c t 0xF9 [] s) := rfl

theorem exec_m1Start (c : Nat) (t : U64) (s : State) :
    exec (.m1Start c t) s = .next (receive c t 0xFA [] s) := rfl

theorem exec_m1Continue (c : Nat) (t : U64) (s : State) :
    exec (.m1Continue c t) s = .next (receive c t 0xFB [] s) := rfl

theorem exec_m1Stop (c : Nat) (t : U64) (s : State) :
    exec (.m1Stop c t) s = .next (receive c t 0xFC [] s) := rfl

theorem exec_m1ReservedFD (c : Nat) (t : U64) (s : State) :
    exec (.m1ReservedFD c t) s = .next (receive c t 0xFD [] s) := rfl

theorem exec_m1ActiveSensing (c : Nat) (t : U64) (s : State) :
    exec (.m1ActiveSensing c t) s = .next (receive c t 0xFE [] s) := rfl

theorem exec_m1SystemReset (c : Nat) (t : U64) (s : State) :
    exec (.m1SystemReset c t) s = .next (receive c t 0xFF [] s) := rfl

theorem exec_m1DataByte (c : Nat) (t : U64) (value : U7) (s : State) :
    exec (.m1DataByte c t value) s = .next (feed c t [value.byte] s) := rfl

/-! ### UMP rows -/

theorem exec_umpNoOp (g : U4) (s : State) :
    exec (.umpNoOp g) s
      = .next (s.ended (eventOr (decUtility 0x0 0 g))) :=
  congrArg Host.Outcome.next (State.decoded_eq_ended ..)

theorem exec_umpJrClock (g : U4) (time : U16) (s : State) :
    exec (.umpJrClock g time) s
      = .next (s.ended (eventOr (decUtility 0x1 time g))) :=
  congrArg Host.Outcome.next (State.decoded_eq_ended ..)

theorem exec_umpJrTimestamp (g : U4) (time : U16) (s : State) :
    exec (.umpJrTimestamp g time) s
      = .next (s.ended (eventOr (decUtility 0x2 time g))) :=
  congrArg Host.Outcome.next (State.decoded_eq_ended ..)

theorem exec_umpMt1TimecodeQuarterFrame (g : U4) (d1 : Byte) (s : State) :
    exec (.umpMt1TimecodeQuarterFrame g d1) s
      = .next (s.ended (eventOr (decSystem 0xF1 d1 0 g))) :=
  congrArg Host.Outcome.next (State.decoded_eq_ended ..)

theorem exec_umpMt1SongPositionPointer (g : U4) (d1 d2 : Byte) (s : State) :
    exec (.umpMt1SongPositionPointer g d1 d2) s
      = .next (s.ended (eventOr (decSystem 0xF2 d1 d2 g))) :=
  congrArg Host.Outcome.next (State.decoded_eq_ended ..)

theorem exec_umpMt1SongSelect (g : U4) (d1 : Byte) (s : State) :
    exec (.umpMt1SongSelect g d1) s
      = .next (s.ended (eventOr (decSystem 0xF3 d1 0 g))) :=
  congrArg Host.Outcome.next (State.decoded_eq_ended ..)

theorem exec_umpMt1TuneRequest (g : U4) (s : State) :
    exec (.umpMt1TuneRequest g) s
      = .next (s.ended (eventOr (decSystem 0xF6 0 0 g))) :=
  congrArg Host.Outcome.next (State.decoded_eq_ended ..)

theorem exec_umpMt1TimingClock (g : U4) (s : State) :
    exec (.umpMt1TimingClock g) s
      = .next (s.ended (eventOr (decSystem 0xF8 0 0 g))) :=
  congrArg Host.Outcome.next (State.decoded_eq_ended ..)

theorem exec_umpMt1Start (g : U4) (s : State) :
    exec (.umpMt1Start g) s
      = .next (s.ended (eventOr (decSystem 0xFA 0 0 g))) :=
  congrArg Host.Outcome.next (State.decoded_eq_ended ..)

theorem exec_umpMt1Continue (g : U4) (s : State) :
    exec (.umpMt1Continue g) s
      = .next (s.ended (eventOr (decSystem 0xFB 0 0 g))) :=
  congrArg Host.Outcome.next (State.decoded_eq_ended ..)

theorem exec_umpMt1Stop (g : U4) (s : State) :
    exec (.umpMt1Stop g) s
      = .next (s.ended (eventOr (decSystem 0xFC 0 0 g))) :=
  congrArg Host.Outcome.next (State.decoded_eq_ended ..)

theorem exec_umpMt1ActiveSensing (g : U4) (s : State) :
    exec (.umpMt1ActiveSensing g) s
      = .next (s.ended (eventOr (decSystem 0xFE 0 0 g))) :=
  congrArg Host.Outcome.next (State.decoded_eq_ended ..)

theorem exec_umpMt1SystemReset (g : U4) (s : State) :
    exec (.umpMt1SystemReset g) s
      = .next (s.ended (eventOr (decSystem 0xFF 0 0 g))) :=
  congrArg Host.Outcome.next (State.decoded_eq_ended ..)

theorem exec_umpMt2NoteOff (g ch : U4) (d1 d2 : Byte) (s : State) :
    exec (.umpMt2NoteOff g ch d1 d2) s
      = .next (s.ended (eventOr (decVoice1 s.params.noteOnV0AsNoteOff (chanStatus 0x8 ch) d1 d2 g))) :=
  congrArg Host.Outcome.next (State.decoded_eq_ended ..)

theorem exec_umpMt2NoteOn (g ch : U4) (d1 d2 : Byte) (s : State) :
    exec (.umpMt2NoteOn g ch d1 d2) s
      = .next (s.ended (eventOr (decVoice1 s.params.noteOnV0AsNoteOff (chanStatus 0x9 ch) d1 d2 g))) :=
  congrArg Host.Outcome.next (State.decoded_eq_ended ..)

theorem exec_umpMt2NotePressure (g ch : U4) (d1 d2 : Byte) (s : State) :
    exec (.umpMt2NotePressure g ch d1 d2) s
      = .next (s.ended (eventOr (decVoice1 s.params.noteOnV0AsNoteOff (chanStatus 0xA ch) d1 d2 g))) :=
  congrArg Host.Outcome.next (State.decoded_eq_ended ..)

theorem exec_umpMt2Cc (g ch : U4) (d1 d2 : Byte) (s : State) :
    exec (.umpMt2Cc g ch d1 d2) s
      = .next (s.ended (eventOr (decVoice1 s.params.noteOnV0AsNoteOff (chanStatus 0xB ch) d1 d2 g))) :=
  congrArg Host.Outcome.next (State.decoded_eq_ended ..)

theorem exec_umpMt2ProgramChange (g ch : U4) (d1 : Byte) (s : State) :
    exec (.umpMt2ProgramChange g ch d1) s
      = .next (s.ended (eventOr (decVoice1 s.params.noteOnV0AsNoteOff (chanStatus 0xC ch) d1 0 g))) :=
  congrArg Host.Outcome.next (State.decoded_eq_ended ..)

theorem exec_umpMt2Pressure (g ch : U4) (d1 : Byte) (s : State) :
    exec (.umpMt2Pressure g ch d1) s
      = .next (s.ended (eventOr (decVoice1 s.params.noteOnV0AsNoteOff (chanStatus 0xD ch) d1 0 g))) :=
  congrArg Host.Outcome.next (State.decoded_eq_ended ..)

theorem exec_umpMt2PitchBend (g ch : U4) (d1 d2 : Byte) (s : State) :
    exec (.umpMt2PitchBend g ch d1 d2) s
      = .next (s.ended (eventOr (decVoice1 s.params.noteOnV0AsNoteOff (chanStatus 0xE ch) d1 d2 g))) :=
  congrArg Host.Outcome.next (State.decoded_eq_ended ..)

theorem exec_umpSysEx7Complete (g n : U4) (b0 b1 : Byte) (w1 : Word) (rest : List Word) (s : State) :
    exec (.umpSysEx7Complete g n b0 b1 w1 rest) s
      = .next (s.ended (eventOr (decSysEx7 s.params.registry (sysEx7Words 0x0 g n b0 b1 w1 rest)))) :=
  congrArg Host.Outcome.next (State.decoded_eq_ended ..)

theorem exec_umpSysEx7Start (g n : U4) (b0 b1 : Byte) (w1 : Word) (rest : List Word) (s : State) :
    exec (.umpSysEx7Start g n b0 b1 w1 rest) s
      = .next (s.ended (eventOr (decSysEx7 s.params.registry (sysEx7Words 0x1 g n b0 b1 w1 rest)))) :=
  congrArg Host.Outcome.next (State.decoded_eq_ended ..)

theorem exec_umpSysEx7Continue (g n : U4) (b0 b1 : Byte) (w1 : Word) (rest : List Word) (s : State) :
    exec (.umpSysEx7Continue g n b0 b1 w1 rest) s
      = .next (s.ended (eventOr (decSysEx7 s.params.registry (sysEx7Words 0x2 g n b0 b1 w1 rest)))) :=
  congrArg Host.Outcome.next (State.decoded_eq_ended ..)

theorem exec_umpSysEx7End (g n : U4) (b0 b1 : Byte) (w1 : Word) (rest : List Word) (s : State) :
    exec (.umpSysEx7End g n b0 b1 w1 rest) s
      = .next (s.ended (eventOr (decSysEx7 s.params.registry (sysEx7Words 0x3 g n b0 b1 w1 rest)))) :=
  congrArg Host.Outcome.next (State.decoded_eq_ended ..)

theorem exec_umpMt4NoteCCRegistered (g ch : U4) (note index : Byte) (value : Word) (s : State) :
    exec (.umpMt4NoteCCRegistered g ch note index value) s
      = .next (s.ended (eventOr (decNoteCC note (.registered index) value ch g))) :=
  congrArg Host.Outcome.next (State.decoded_eq_ended ..)

theorem exec_umpMt4NoteCCAssignable (g ch : U4) (note index : Byte) (value : Word) (s : State) :
    exec (.umpMt4NoteCCAssignable g ch note index value) s
      = .next (s.ended (eventOr (decNoteCC note (.assignable index) value ch g))) :=
  congrArg Host.Outcome.next (State.decoded_eq_ended ..)

theorem exec_umpMt4RegisteredController (g ch : U4) (s : State) :
    exec (.umpMt4RegisteredController g ch) s
      = .next (s.ended (eventOr (decUnsupportedOp 0x2))) :=
  congrArg Host.Outcome.next (State.decoded_eq_ended ..)

theorem exec_umpMt4AssignableController (g ch : U4) (s : State) :
    exec (.umpMt4AssignableController g ch) s
      = .next (s.ended (eventOr (decUnsupportedOp 0x3))) :=
  congrArg Host.Outcome.next (State.decoded_eq_ended ..)

theorem exec_umpMt4RelativeRegisteredController (g ch : U4) (s : State) :
    exec (.umpMt4RelativeRegisteredController g ch) s
      = .next (s.ended (eventOr (decUnsupportedOp 0x4))) :=
  congrArg Host.Outcome.next (State.decoded_eq_ended ..)

theorem exec_umpMt4RelativeAssignableController (g ch : U4) (s : State) :
    exec (.umpMt4RelativeAssignableController g ch) s
      = .next (s.ended (eventOr (decUnsupportedOp 0x5))) :=
  congrArg Host.Outcome.next (State.decoded_eq_ended ..)

theorem exec_umpMt4NotePitchBend (g ch : U4) (note : Byte) (value : Word) (s : State) :
    exec (.umpMt4NotePitchBend g ch note value) s
      = .next (s.ended (eventOr (decNotePitchBend note value ch g))) :=
  congrArg Host.Outcome.next (State.decoded_eq_ended ..)

theorem exec_umpMt4ReservedOp7 (g ch : U4) (s : State) :
    exec (.umpMt4ReservedOp7 g ch) s
      = .next (s.ended (eventOr (.error (.malformed .status)))) :=
  congrArg Host.Outcome.next (State.decoded_eq_ended ..)

theorem exec_umpMt4NoteOff (g ch : U4) (note attrType : Byte) (velocity attrData : U16) (s : State) :
    exec (.umpMt4NoteOff g ch note attrType velocity attrData) s
      = .next (s.ended (eventOr (decNoteOff note attrType velocity attrData ch g))) :=
  congrArg Host.Outcome.next (State.decoded_eq_ended ..)

theorem exec_umpMt4NoteOn (g ch : U4) (note attrType : Byte) (velocity attrData : U16) (s : State) :
    exec (.umpMt4NoteOn g ch note attrType velocity attrData) s
      = .next (s.ended (eventOr (decNoteOn note attrType velocity attrData ch g))) :=
  congrArg Host.Outcome.next (State.decoded_eq_ended ..)

theorem exec_umpMt4NotePressure (g ch : U4) (note : Byte) (amount : Word) (s : State) :
    exec (.umpMt4NotePressure g ch note amount) s
      = .next (s.ended (eventOr (decNotePressure note amount ch g))) :=
  congrArg Host.Outcome.next (State.decoded_eq_ended ..)

theorem exec_umpMt4Cc (g ch : U4) (controller : Byte) (value : Word) (s : State) :
    exec (.umpMt4Cc g ch controller value) s
      = .next (s.ended (eventOr (decCc controller value ch g))) :=
  congrArg Host.Outcome.next (State.decoded_eq_ended ..)

theorem exec_umpMt4ProgramChange (g ch : U4) (bankValid : Bool) (program bankMsb bankLsb : Byte) (s : State) :
    exec (.umpMt4ProgramChange g ch bankValid program bankMsb bankLsb) s
      = .next (s.ended (eventOr (decProgramChange bankValid program bankMsb bankLsb ch g))) :=
  congrArg Host.Outcome.next (State.decoded_eq_ended ..)

theorem exec_umpMt4Pressure (g ch : U4) (amount : Word) (s : State) :
    exec (.umpMt4Pressure g ch amount) s
      = .next (s.ended (eventOr (decPressure amount ch g))) :=
  congrArg Host.Outcome.next (State.decoded_eq_ended ..)

theorem exec_umpMt4PitchBend (g ch : U4) (value : Word) (s : State) :
    exec (.umpMt4PitchBend g ch value) s
      = .next (s.ended (eventOr (decPitchBend value ch g))) :=
  congrArg Host.Outcome.next (State.decoded_eq_ended ..)

theorem exec_umpMt4PerNoteManagement (g ch : U4) (s : State) :
    exec (.umpMt4PerNoteManagement g ch) s
      = .next (s.ended (eventOr (decUnsupportedOp 0xF))) :=
  congrArg Host.Outcome.next (State.decoded_eq_ended ..)

theorem exec_umpSysEx8Complete (g n : U4) (sid b0 : Byte) (w1 w2 w3 : Word) (rest : List Word) (s : State) :
    exec (.umpSysEx8Complete g n sid b0 w1 w2 w3 rest) s
      = .next (s.ended (eventOr (decSysEx8 s.params.registry (sysEx8Words 0x0 g n sid b0 w1 w2 w3 rest)))) :=
  congrArg Host.Outcome.next (State.decoded_eq_ended ..)

theorem exec_umpSysEx8Start (g n : U4) (sid b0 : Byte) (w1 w2 w3 : Word) (rest : List Word) (s : State) :
    exec (.umpSysEx8Start g n sid b0 w1 w2 w3 rest) s
      = .next (s.ended (eventOr (decSysEx8 s.params.registry (sysEx8Words 0x1 g n sid b0 w1 w2 w3 rest)))) :=
  congrArg Host.Outcome.next (State.decoded_eq_ended ..)

theorem exec_umpSysEx8Continue (g n : U4) (sid b0 : Byte) (w1 w2 w3 : Word) (rest : List Word) (s : State) :
    exec (.umpSysEx8Continue g n sid b0 w1 w2 w3 rest) s
      = .next (s.ended (eventOr (decSysEx8 s.params.registry (sysEx8Words 0x2 g n sid b0 w1 w2 w3 rest)))) :=
  congrArg Host.Outcome.next (State.decoded_eq_ended ..)

theorem exec_umpSysEx8End (g n : U4) (sid b0 : Byte) (w1 w2 w3 : Word) (rest : List Word) (s : State) :
    exec (.umpSysEx8End g n sid b0 w1 w2 w3 rest) s
      = .next (s.ended (eventOr (decSysEx8 s.params.registry (sysEx8Words 0x3 g n sid b0 w1 w2 w3 rest)))) :=
  congrArg Host.Outcome.next (State.decoded_eq_ended ..)

theorem exec_umpMixedDataHeader (g : U4) (s : State) :
    exec (.umpMixedDataHeader g) s
      = .next (s.ended (eventOr (.error (.unsupported .mixedData)))) :=
  congrArg Host.Outcome.next (State.decoded_eq_ended ..)

theorem exec_umpMixedDataPayload (g : U4) (s : State) :
    exec (.umpMixedDataPayload g) s
      = .next (s.ended (eventOr (.error (.unsupported .mixedData)))) :=
  congrArg Host.Outcome.next (State.decoded_eq_ended ..)

theorem exec_umpReservedMT6 (g : U4) (s : State) :
    exec (.umpReservedMT6 g) s
      = .next (s.ended (eventOr (.error (.malformed .reservedMT)))) :=
  congrArg Host.Outcome.next (State.decoded_eq_ended ..)

theorem exec_umpReservedMT7 (g : U4) (s : State) :
    exec (.umpReservedMT7 g) s
      = .next (s.ended (eventOr (.error (.malformed .reservedMT)))) :=
  congrArg Host.Outcome.next (State.decoded_eq_ended ..)

theorem exec_umpReservedMT8 (g : U4) (s : State) :
    exec (.umpReservedMT8 g) s
      = .next (s.ended (eventOr (.error (.malformed .reservedMT)))) :=
  congrArg Host.Outcome.next (State.decoded_eq_ended ..)

theorem exec_umpReservedMT9 (g : U4) (s : State) :
    exec (.umpReservedMT9 g) s
      = .next (s.ended (eventOr (.error (.malformed .reservedMT)))) :=
  congrArg Host.Outcome.next (State.decoded_eq_ended ..)

theorem exec_umpReservedMTA (g : U4) (s : State) :
    exec (.umpReservedMTA g) s
      = .next (s.ended (eventOr (.error (.malformed .reservedMT)))) :=
  congrArg Host.Outcome.next (State.decoded_eq_ended ..)

theorem exec_umpReservedMTB (g : U4) (s : State) :
    exec (.umpReservedMTB g) s
      = .next (s.ended (eventOr (.error (.malformed .reservedMT)))) :=
  congrArg Host.Outcome.next (State.decoded_eq_ended ..)

theorem exec_umpReservedMTC (g : U4) (s : State) :
    exec (.umpReservedMTC g) s
      = .next (s.ended (eventOr (.error (.malformed .reservedMT)))) :=
  congrArg Host.Outcome.next (State.decoded_eq_ended ..)

theorem exec_umpReservedMTD (g : U4) (s : State) :
    exec (.umpReservedMTD g) s
      = .next (s.ended (eventOr (.error (.malformed .reservedMT)))) :=
  congrArg Host.Outcome.next (State.decoded_eq_ended ..)

theorem exec_umpReservedMTE (g : U4) (s : State) :
    exec (.umpReservedMTE g) s
      = .next (s.ended (eventOr (.error (.malformed .reservedMT)))) :=
  congrArg Host.Outcome.next (State.decoded_eq_ended ..)

theorem exec_umpReservedMTF (g : U4) (s : State) :
    exec (.umpReservedMTF g) s
      = .next (s.ended (eventOr (.error (.malformed .reservedMT)))) :=
  congrArg Host.Outcome.next (State.decoded_eq_ended ..)

/-! ### All instructions -/

/-- A pure instruction ends with an outcome that depends on the parameters alone. -/
theorem exec_pure (p : Params) {i : Instr} (h : contextOf i = none) :
    ∃ r, ∀ s : State, s.params = p → exec i s = .next (s.ended r) := by
  cases i
  case reset x0 => simp [contextOf] at h
  case feed x0 x1 x2 => simp [contextOf] at h
  case encM1 x0 => exact ⟨_, fun s hs => (exec_encM1 ..).trans (by rw [hs])⟩
  case encUmp x0 x1 => exact ⟨_, fun s hs => (exec_encUmp ..).trans (by rw [hs])⟩
  case decM1 x0 x1 => exact ⟨_, fun s hs => (exec_decM1 ..).trans (by rw [hs])⟩
  case decUmp x0 => exact ⟨_, fun s hs => (exec_decUmp ..).trans (by rw [hs])⟩
  case makeUint x0 x1 => exact ⟨_, fun _ _ => exec_makeUint ..⟩
  case scale x0 x1 x2 => exact ⟨_, fun _ _ => exec_scale ..⟩
  case toBipolar x0 x1 => exact ⟨_, fun _ _ => exec_toBipolar ..⟩
  case fromBipolar x0 x1 => exact ⟨_, fun _ _ => exec_fromBipolar ..⟩
  case toUnipolar x0 x1 => exact ⟨_, fun _ _ => exec_toUnipolar ..⟩
  case fromUnipolar x0 x1 => exact ⟨_, fun _ _ => exec_fromUnipolar ..⟩
  case sysexId x0 x1 => exact ⟨_, fun s hs => (exec_sysexId ..).trans (by rw [hs])⟩
  case classify x0 => exact ⟨_, fun s hs => (exec_classify ..).trans (by rw [hs])⟩
  case filter x0 x1 => exact ⟨_, fun s hs => (exec_filter ..).trans (by rw [hs])⟩
  case m1NoteOff x0 x1 x2 x3 x4 => simp [contextOf] at h
  case m1NoteOn x0 x1 x2 x3 x4 => simp [contextOf] at h
  case m1NotePressure x0 x1 x2 x3 x4 => simp [contextOf] at h
  case m1Cc x0 x1 x2 x3 x4 => simp [contextOf] at h
  case m1ProgramChange x0 x1 x2 x3 => simp [contextOf] at h
  case m1Pressure x0 x1 x2 x3 => simp [contextOf] at h
  case m1PitchBend x0 x1 x2 x3 x4 => simp [contextOf] at h
  case m1SysExStart x0 x1 x2 => simp [contextOf] at h
  case m1TimecodeQuarterFrame x0 x1 x2 => simp [contextOf] at h
  case m1SongPositionPointer x0 x1 x2 x3 => simp [contextOf] at h
  case m1SongSelect x0 x1 x2 => simp [contextOf] at h
  case m1ReservedF4 x0 x1 => simp [contextOf] at h
  case m1ReservedF5 x0 x1 => simp [contextOf] at h
  case m1TuneRequest x0 x1 => simp [contextOf] at h
  case m1Eox x0 x1 => simp [contextOf] at h
  case m1TimingClock x0 x1 => simp [contextOf] at h
  case m1ReservedF9 x0 x1 => simp [contextOf] at h
  case m1Start x0 x1 => simp [contextOf] at h
  case m1Continue x0 x1 => simp [contextOf] at h
  case m1Stop x0 x1 => simp [contextOf] at h
  case m1ReservedFD x0 x1 => simp [contextOf] at h
  case m1ActiveSensing x0 x1 => simp [contextOf] at h
  case m1SystemReset x0 x1 => simp [contextOf] at h
  case m1DataByte x0 x1 x2 => simp [contextOf] at h
  case umpNoOp x0 => exact ⟨_, fun _ _ => exec_umpNoOp ..⟩
  case umpJrClock x0 x1 => exact ⟨_, fun _ _ => exec_umpJrClock ..⟩
  case umpJrTimestamp x0 x1 => exact ⟨_, fun _ _ => exec_umpJrTimestamp ..⟩
  case umpMt1TimecodeQuarterFrame x0 x1 => exact ⟨_, fun _ _ => exec_umpMt1TimecodeQuarterFrame ..⟩
  case umpMt1SongPositionPointer x0 x1 x2 => exact ⟨_, fun _ _ => exec_umpMt1SongPositionPointer ..⟩
  case umpMt1SongSelect x0 x1 => exact ⟨_, fun _ _ => exec_umpMt1SongSelect ..⟩
  case umpMt1TuneRequest x0 => exact ⟨_, fun _ _ => exec_umpMt1TuneRequest ..⟩
  case umpMt1TimingClock x0 => exact ⟨_, fun _ _ => exec_umpMt1TimingClock ..⟩
  case umpMt1Start x0 => exact ⟨_, fun _ _ => exec_umpMt1Start ..⟩
  case umpMt1Continue x0 => exact ⟨_, fun _ _ => exec_umpMt1Continue ..⟩
  case umpMt1Stop x0 => exact ⟨_, fun _ _ => exec_umpMt1Stop ..⟩
  case umpMt1ActiveSensing x0 => exact ⟨_, fun _ _ => exec_umpMt1ActiveSensing ..⟩
  case umpMt1SystemReset x0 => exact ⟨_, fun _ _ => exec_umpMt1SystemReset ..⟩
  case umpMt2NoteOff x0 x1 x2 x3 => exact ⟨_, fun s hs => (exec_umpMt2NoteOff ..).trans (by rw [hs])⟩
  case umpMt2NoteOn x0 x1 x2 x3 => exact ⟨_, fun s hs => (exec_umpMt2NoteOn ..).trans (by rw [hs])⟩
  case umpMt2NotePressure x0 x1 x2 x3 => exact ⟨_, fun s hs => (exec_umpMt2NotePressure ..).trans (by rw [hs])⟩
  case umpMt2Cc x0 x1 x2 x3 => exact ⟨_, fun s hs => (exec_umpMt2Cc ..).trans (by rw [hs])⟩
  case umpMt2ProgramChange x0 x1 x2 => exact ⟨_, fun s hs => (exec_umpMt2ProgramChange ..).trans (by rw [hs])⟩
  case umpMt2Pressure x0 x1 x2 => exact ⟨_, fun s hs => (exec_umpMt2Pressure ..).trans (by rw [hs])⟩
  case umpMt2PitchBend x0 x1 x2 x3 => exact ⟨_, fun s hs => (exec_umpMt2PitchBend ..).trans (by rw [hs])⟩
  case umpSysEx7Complete x0 x1 x2 x3 x4 x5 => exact ⟨_, fun s hs => (exec_umpSysEx7Complete ..).trans (by rw [hs])⟩
  case umpSysEx7Start x0 x1 x2 x3 x4 x5 => exact ⟨_, fun s hs => (exec_umpSysEx7Start ..).trans (by rw [hs])⟩
  case umpSysEx7Continue x0 x1 x2 x3 x4 x5 => exact ⟨_, fun s hs => (exec_umpSysEx7Continue ..).trans (by rw [hs])⟩
  case umpSysEx7End x0 x1 x2 x3 x4 x5 => exact ⟨_, fun s hs => (exec_umpSysEx7End ..).trans (by rw [hs])⟩
  case umpMt4NoteCCRegistered x0 x1 x2 x3 x4 => exact ⟨_, fun _ _ => exec_umpMt4NoteCCRegistered ..⟩
  case umpMt4NoteCCAssignable x0 x1 x2 x3 x4 => exact ⟨_, fun _ _ => exec_umpMt4NoteCCAssignable ..⟩
  case umpMt4RegisteredController x0 x1 => exact ⟨_, fun _ _ => exec_umpMt4RegisteredController ..⟩
  case umpMt4AssignableController x0 x1 => exact ⟨_, fun _ _ => exec_umpMt4AssignableController ..⟩
  case umpMt4RelativeRegisteredController x0 x1 => exact ⟨_, fun _ _ => exec_umpMt4RelativeRegisteredController ..⟩
  case umpMt4RelativeAssignableController x0 x1 => exact ⟨_, fun _ _ => exec_umpMt4RelativeAssignableController ..⟩
  case umpMt4NotePitchBend x0 x1 x2 x3 => exact ⟨_, fun _ _ => exec_umpMt4NotePitchBend ..⟩
  case umpMt4ReservedOp7 x0 x1 => exact ⟨_, fun _ _ => exec_umpMt4ReservedOp7 ..⟩
  case umpMt4NoteOff x0 x1 x2 x3 x4 x5 => exact ⟨_, fun _ _ => exec_umpMt4NoteOff ..⟩
  case umpMt4NoteOn x0 x1 x2 x3 x4 x5 => exact ⟨_, fun _ _ => exec_umpMt4NoteOn ..⟩
  case umpMt4NotePressure x0 x1 x2 x3 => exact ⟨_, fun _ _ => exec_umpMt4NotePressure ..⟩
  case umpMt4Cc x0 x1 x2 x3 => exact ⟨_, fun _ _ => exec_umpMt4Cc ..⟩
  case umpMt4ProgramChange x0 x1 x2 x3 x4 x5 => exact ⟨_, fun _ _ => exec_umpMt4ProgramChange ..⟩
  case umpMt4Pressure x0 x1 x2 => exact ⟨_, fun _ _ => exec_umpMt4Pressure ..⟩
  case umpMt4PitchBend x0 x1 x2 => exact ⟨_, fun _ _ => exec_umpMt4PitchBend ..⟩
  case umpMt4PerNoteManagement x0 x1 => exact ⟨_, fun _ _ => exec_umpMt4PerNoteManagement ..⟩
  case umpSysEx8Complete x0 x1 x2 x3 x4 x5 x6 x7 => exact ⟨_, fun s hs => (exec_umpSysEx8Complete ..).trans (by rw [hs])⟩
  case umpSysEx8Start x0 x1 x2 x3 x4 x5 x6 x7 => exact ⟨_, fun s hs => (exec_umpSysEx8Start ..).trans (by rw [hs])⟩
  case umpSysEx8Continue x0 x1 x2 x3 x4 x5 x6 x7 => exact ⟨_, fun s hs => (exec_umpSysEx8Continue ..).trans (by rw [hs])⟩
  case umpSysEx8End x0 x1 x2 x3 x4 x5 x6 x7 => exact ⟨_, fun s hs => (exec_umpSysEx8End ..).trans (by rw [hs])⟩
  case umpMixedDataHeader x0 => exact ⟨_, fun _ _ => exec_umpMixedDataHeader ..⟩
  case umpMixedDataPayload x0 => exact ⟨_, fun _ _ => exec_umpMixedDataPayload ..⟩
  case umpReservedMT6 x0 => exact ⟨_, fun _ _ => exec_umpReservedMT6 ..⟩
  case umpReservedMT7 x0 => exact ⟨_, fun _ _ => exec_umpReservedMT7 ..⟩
  case umpReservedMT8 x0 => exact ⟨_, fun _ _ => exec_umpReservedMT8 ..⟩
  case umpReservedMT9 x0 => exact ⟨_, fun _ _ => exec_umpReservedMT9 ..⟩
  case umpReservedMTA x0 => exact ⟨_, fun _ _ => exec_umpReservedMTA ..⟩
  case umpReservedMTB x0 => exact ⟨_, fun _ _ => exec_umpReservedMTB ..⟩
  case umpReservedMTC x0 => exact ⟨_, fun _ _ => exec_umpReservedMTC ..⟩
  case umpReservedMTD x0 => exact ⟨_, fun _ _ => exec_umpReservedMTD ..⟩
  case umpReservedMTE x0 => exact ⟨_, fun _ _ => exec_umpReservedMTE ..⟩
  case umpReservedMTF x0 => exact ⟨_, fun _ _ => exec_umpReservedMTF ..⟩

/-- An instruction that names a context is one operation on it: nothing, with no item; or a list of items. -/
theorem exec_onCtx (p : Params) {i : Instr} {c : Nat} (h : contextOf i = some c) :
    (i = .reset c) ∨ ∃ t bs, ∀ s : State, s.params = p → exec i s = .next (feed c t bs s) := by
  cases i
  case reset x0 => cases h; exact .inl rfl
  case feed x0 x1 x2 => cases h; exact .inr ⟨_, _, fun _ _ => rfl⟩
  case encM1 x0 => simp [contextOf] at h
  case encUmp x0 x1 => simp [contextOf] at h
  case decM1 x0 x1 => simp [contextOf] at h
  case decUmp x0 => simp [contextOf] at h
  case makeUint x0 x1 => simp [contextOf] at h
  case scale x0 x1 x2 => simp [contextOf] at h
  case toBipolar x0 x1 => simp [contextOf] at h
  case fromBipolar x0 x1 => simp [contextOf] at h
  case toUnipolar x0 x1 => simp [contextOf] at h
  case fromUnipolar x0 x1 => simp [contextOf] at h
  case sysexId x0 x1 => simp [contextOf] at h
  case classify x0 => simp [contextOf] at h
  case filter x0 x1 => simp [contextOf] at h
  case m1NoteOff x0 x1 x2 x3 x4 => cases h; exact .inr ⟨_, _, fun _ _ => rfl⟩
  case m1NoteOn x0 x1 x2 x3 x4 => cases h; exact .inr ⟨_, _, fun _ _ => rfl⟩
  case m1NotePressure x0 x1 x2 x3 x4 => cases h; exact .inr ⟨_, _, fun _ _ => rfl⟩
  case m1Cc x0 x1 x2 x3 x4 => cases h; exact .inr ⟨_, _, fun _ _ => rfl⟩
  case m1ProgramChange x0 x1 x2 x3 => cases h; exact .inr ⟨_, _, fun _ _ => rfl⟩
  case m1Pressure x0 x1 x2 x3 => cases h; exact .inr ⟨_, _, fun _ _ => rfl⟩
  case m1PitchBend x0 x1 x2 x3 x4 => cases h; exact .inr ⟨_, _, fun _ _ => rfl⟩
  case m1SysExStart x0 x1 x2 => cases h; exact .inr ⟨_, _, fun _ _ => rfl⟩
  case m1TimecodeQuarterFrame x0 x1 x2 => cases h; exact .inr ⟨_, _, fun _ _ => rfl⟩
  case m1SongPositionPointer x0 x1 x2 x3 => cases h; exact .inr ⟨_, _, fun _ _ => rfl⟩
  case m1SongSelect x0 x1 x2 => cases h; exact .inr ⟨_, _, fun _ _ => rfl⟩
  case m1ReservedF4 x0 x1 => cases h; exact .inr ⟨_, _, fun _ _ => rfl⟩
  case m1ReservedF5 x0 x1 => cases h; exact .inr ⟨_, _, fun _ _ => rfl⟩
  case m1TuneRequest x0 x1 => cases h; exact .inr ⟨_, _, fun _ _ => rfl⟩
  case m1Eox x0 x1 => cases h; exact .inr ⟨_, _, fun _ _ => rfl⟩
  case m1TimingClock x0 x1 => cases h; exact .inr ⟨_, _, fun _ _ => rfl⟩
  case m1ReservedF9 x0 x1 => cases h; exact .inr ⟨_, _, fun _ _ => rfl⟩
  case m1Start x0 x1 => cases h; exact .inr ⟨_, _, fun _ _ => rfl⟩
  case m1Continue x0 x1 => cases h; exact .inr ⟨_, _, fun _ _ => rfl⟩
  case m1Stop x0 x1 => cases h; exact .inr ⟨_, _, fun _ _ => rfl⟩
  case m1ReservedFD x0 x1 => cases h; exact .inr ⟨_, _, fun _ _ => rfl⟩
  case m1ActiveSensing x0 x1 => cases h; exact .inr ⟨_, _, fun _ _ => rfl⟩
  case m1SystemReset x0 x1 => cases h; exact .inr ⟨_, _, fun _ _ => rfl⟩
  case m1DataByte x0 x1 x2 => cases h; exact .inr ⟨_, _, fun _ _ => rfl⟩
  case umpNoOp x0 => simp [contextOf] at h
  case umpJrClock x0 x1 => simp [contextOf] at h
  case umpJrTimestamp x0 x1 => simp [contextOf] at h
  case umpMt1TimecodeQuarterFrame x0 x1 => simp [contextOf] at h
  case umpMt1SongPositionPointer x0 x1 x2 => simp [contextOf] at h
  case umpMt1SongSelect x0 x1 => simp [contextOf] at h
  case umpMt1TuneRequest x0 => simp [contextOf] at h
  case umpMt1TimingClock x0 => simp [contextOf] at h
  case umpMt1Start x0 => simp [contextOf] at h
  case umpMt1Continue x0 => simp [contextOf] at h
  case umpMt1Stop x0 => simp [contextOf] at h
  case umpMt1ActiveSensing x0 => simp [contextOf] at h
  case umpMt1SystemReset x0 => simp [contextOf] at h
  case umpMt2NoteOff x0 x1 x2 x3 => simp [contextOf] at h
  case umpMt2NoteOn x0 x1 x2 x3 => simp [contextOf] at h
  case umpMt2NotePressure x0 x1 x2 x3 => simp [contextOf] at h
  case umpMt2Cc x0 x1 x2 x3 => simp [contextOf] at h
  case umpMt2ProgramChange x0 x1 x2 => simp [contextOf] at h
  case umpMt2Pressure x0 x1 x2 => simp [contextOf] at h
  case umpMt2PitchBend x0 x1 x2 x3 => simp [contextOf] at h
  case umpSysEx7Complete x0 x1 x2 x3 x4 x5 => simp [contextOf] at h
  case umpSysEx7Start x0 x1 x2 x3 x4 x5 => simp [contextOf] at h
  case umpSysEx7Continue x0 x1 x2 x3 x4 x5 => simp [contextOf] at h
  case umpSysEx7End x0 x1 x2 x3 x4 x5 => simp [contextOf] at h
  case umpMt4NoteCCRegistered x0 x1 x2 x3 x4 => simp [contextOf] at h
  case umpMt4NoteCCAssignable x0 x1 x2 x3 x4 => simp [contextOf] at h
  case umpMt4RegisteredController x0 x1 => simp [contextOf] at h
  case umpMt4AssignableController x0 x1 => simp [contextOf] at h
  case umpMt4RelativeRegisteredController x0 x1 => simp [contextOf] at h
  case umpMt4RelativeAssignableController x0 x1 => simp [contextOf] at h
  case umpMt4NotePitchBend x0 x1 x2 x3 => simp [contextOf] at h
  case umpMt4ReservedOp7 x0 x1 => simp [contextOf] at h
  case umpMt4NoteOff x0 x1 x2 x3 x4 x5 => simp [contextOf] at h
  case umpMt4NoteOn x0 x1 x2 x3 x4 x5 => simp [contextOf] at h
  case umpMt4NotePressure x0 x1 x2 x3 => simp [contextOf] at h
  case umpMt4Cc x0 x1 x2 x3 => simp [contextOf] at h
  case umpMt4ProgramChange x0 x1 x2 x3 x4 x5 => simp [contextOf] at h
  case umpMt4Pressure x0 x1 x2 => simp [contextOf] at h
  case umpMt4PitchBend x0 x1 x2 => simp [contextOf] at h
  case umpMt4PerNoteManagement x0 x1 => simp [contextOf] at h
  case umpSysEx8Complete x0 x1 x2 x3 x4 x5 x6 x7 => simp [contextOf] at h
  case umpSysEx8Start x0 x1 x2 x3 x4 x5 x6 x7 => simp [contextOf] at h
  case umpSysEx8Continue x0 x1 x2 x3 x4 x5 x6 x7 => simp [contextOf] at h
  case umpSysEx8End x0 x1 x2 x3 x4 x5 x6 x7 => simp [contextOf] at h
  case umpMixedDataHeader x0 => simp [contextOf] at h
  case umpMixedDataPayload x0 => simp [contextOf] at h
  case umpReservedMT6 x0 => simp [contextOf] at h
  case umpReservedMT7 x0 => simp [contextOf] at h
  case umpReservedMT8 x0 => simp [contextOf] at h
  case umpReservedMT9 x0 => simp [contextOf] at h
  case umpReservedMTA x0 => simp [contextOf] at h
  case umpReservedMTB x0 => simp [contextOf] at h
  case umpReservedMTC x0 => simp [contextOf] at h
  case umpReservedMTD x0 => simp [contextOf] at h
  case umpReservedMTE x0 => simp [contextOf] at h
  case umpReservedMTF x0 => simp [contextOf] at h

/-- Everything an instruction can do. Either it ends with an outcome and changes nothing else, and it can fail only if
it names no context; or it writes the one context it names and ends with nothing or with items. -/
theorem exec_effect {i : Instr} {s t : State} (h : exec i s = .next t) :
    (∃ r, t = s.ended r ∧ ((∃ e, r = .err e) → contextOf i = none))
      ∨ ∃ c S S' r, contextOf i = some c ∧ s.ctxs[c]? = some S ∧ (r = .done ∨ ∃ l, r = .items l)
        ∧ t = { s with ctxs := s.ctxs.set c S', outcomes := s.outcomes ++ [r] } := by
  cases hc : contextOf i with
  | none =>
    obtain ⟨r, hr⟩ := exec_pure s.params hc
    rw [hr s rfl] at h
    cases h
    exact .inl ⟨r, rfl, fun _ => rfl⟩
  | some c =>
    have : ∃ f : Ctx → Result × Ctx,
        (∀ S, (f S).1 = .done ∨ ∃ l, (f S).1 = .items l) ∧ exec i s = .next (s.onCtx c f) := by
      rcases exec_onCtx s.params hc with rfl | ⟨t', bs, hr⟩
      · exact ⟨_, fun _ => .inl rfl, rfl⟩
      · exact ⟨_, fun S => .inr ⟨_, rfl⟩, hr s rfl⟩
    obtain ⟨f, hf, he⟩ := this
    rw [he] at h
    cases h
    cases hS : s.ctxs[c]? with
    | none => exact .inl ⟨_, State.onCtx_none hS f, by rintro ⟨e, ⟨⟩⟩⟩
    | some S => exact .inr ⟨c, S, _, _, rfl, hS, hf S, State.onCtx_some hS f⟩

end Sys2Proof.Machine
end

