-- ==== Sys2Proof/Laws/Midi1.lean ====
section
/-! SUPPORT. Laws of the MIDI 1.0 codec: when a message is complete it has an event, and DEC_M1 by the kind of its first
byte. -/

namespace Sys2Proof.Machine

theorem asData_eq_none {l : List Byte} (h : ∃ b ∈ l, 0x80 ≤ b.toNat) : asData l = none := by
  unfold asData
  rw [if_pos]
  simpa [isStatus] using h

/-- A status byte whose length R96 gives is one of a channel voice message, or a System status from this list. -/
theorem need_cases {b : Byte} {n : Nat} (h : need b = some n) :
    (∃ nib ch : U4, 0x8 ≤ nib.toNat ∧ nib.toNat ≤ 0xE ∧ b = chanStatus nib ch) ∨ b = 0xF1 ∨ b = 0xF2 ∨ b = 0xF3
      ∨ b = 0xF6 ∨ b = 0xF8 ∨ b = 0xF9 ∨ b = 0xFA ∨ b = 0xFB ∨ b = 0xFC ∨ b = 0xFD ∨ b = 0xFE ∨ b = 0xFF := by
  have all : ∀ b : Byte, (need b).isSome = true →
      (0x8 ≤ ((b.extractLsb' 4 4 : U4)).toNat ∧ ((b.extractLsb' 4 4 : U4)).toNat ≤ 0xE
        ∧ b = chanStatus (b.extractLsb' 4 4) (channel b)) ∨ b = 0xF1 ∨ b = 0xF2 ∨ b = 0xF3
      ∨ b = 0xF6 ∨ b = 0xF8 ∨ b = 0xF9 ∨ b = 0xFA ∨ b = 0xFB ∨ b = 0xFC ∨ b = 0xFD ∨ b = 0xFE ∨ b = 0xFF := by
    decide
  rcases all b (by rw [h]; rfl) with ⟨h1, h2, h3⟩ | h
  · exact .inl ⟨_, _, h1, h2, h3⟩
  · exact .inr h

/-- A complete channel voice message has an event (R201 to R207). -/
theorem chanEvent_isSome {nib ch : U4} {d : List U7} (h : 0x8 ≤ nib.toNat ∧ nib.toNat ≤ 0xE)
    (hd : isComplete (chanStatus nib ch) d) (v0off : Bool) (g : U4) :
    ∃ e, chanEvent v0off (chanStatus nib ch) d g = some e := by
  unfold isComplete at hd
  rw [need_chanStatus ch h] at hd
  unfold chanEvent
  simp only [nibble_chanStatus, channel_chanStatus]
  generalize nib.toNat = k at h hd
  obtain ⟨h1, h2⟩ := h
  rcases d with _ | ⟨a, _ | ⟨b, _ | ⟨c, d⟩⟩⟩ <;> interval_cases k <;> simp at hd <;>
    first
    | exact ⟨_, rfl⟩
    | exact ⟨_, (apply_ite some _ _ _).symm⟩

/-- A complete message of a defined status has an event (R201 to R212). -/
theorem messageEvent_isSome {b : Byte} {d : List U7} (h : isComplete b d) (h9 : b ≠ 0xF9) (hd : b ≠ 0xFD)
    (v0off : Bool) (g : U4) : ∃ e, messageEvent v0off b d g = some e := by
  unfold messageEvent
  rcases need_cases h with ⟨nib, ch, h1, h2, rfl⟩ | rfl | rfl | rfl | rfl | rfl | rfl | rfl | rfl | rfl | rfl | rfl | rfl
  · rw [if_pos (by have := ch.isLt; rw [toNat_chanStatus]; omega)]
    exact chanEvent_isSome ⟨h1, h2⟩ h v0off g
  all_goals
    rcases d with _ | ⟨a, _ | ⟨b, _ | ⟨c, d⟩⟩⟩ <;> first
      | exact absurd rfl h9
      | exact absurd rfl hd
      | (exfalso; revert h; simp [isComplete, need, nibble]; done)
      | exact ⟨_, rfl⟩

/-- DEC_M1 of a message that is not SysEx and not reserved: the length, then the data bytes, then the event (R200). -/
theorem decM1_message {b : Byte} {n : Nat} (h : need b = some n) (h9 : b ≠ 0xF9) (hd : b ≠ 0xFD) (p : Params)
    (rest : List Byte) (g : U4) :
    decM1 p (b :: rest) g = if rest.length ≠ n then .error (.malformed .length) else
      match asData rest with
      | none => .error (.malformed .statusInData)
      | some d =>
        match messageEvent p.noteOnV0AsNoteOff b d g with
        | some e => .ok e
        | none => .error (.malformed .reserved) := by
  have all : ∀ b : Byte, (need b).isSome = true → b ≠ 0xF9 → b ≠ 0xFD →
      isStatus b = true ∧ b ≠ 0xF0 ∧ isReservedM1 b = false := by decide
  obtain ⟨h1, h2, h3⟩ := all b (by rw [h]; rfl) h9 hd
  unfold decM1
  simp only [h1, h2, h3, h, Bool.not_true, Bool.false_eq_true, if_false]
  by_cases hn : rest.length = n
  · rw [if_neg (by simp [hn]), if_neg (by simp [hn])] <;> rfl
  · rw [if_pos (by simpa [eq_comm] using hn), if_pos hn]

/-- DEC_M1 of a complete message is its event (R200). -/
theorem decM1_complete {b : Byte} {d : List U7} {e : Event} (h : isComplete b d) (h9 : b ≠ 0xF9) (hd : b ≠ 0xFD)
    {p : Params} {g : U4} (he : messageEvent p.noteOnV0AsNoteOff b d g = some e) :
    decM1 p (b :: d.map U7.byte) g = .ok e := by
  rw [decM1_message h h9 hd, if_neg (by simp), asData_map_byte]
  simp only [he]

/-- DEC_M1 of a SysEx whose body is data bytes (R200). -/
theorem decM1_sysEx (p : Params) (body : List U7) (g : U4) :
    decM1 p (0xF0 :: (body.map U7.byte ++ [0xF7])) g = sysEx7FromBody p.registry body g := by
  have h : decM1 p (0xF0 :: (body.map U7.byte ++ [0xF7])) g = decM1SysEx p (body.map U7.byte ++ [0xF7]) g := rfl
  rw [h]
  unfold decM1SysEx
  rw [if_neg (by simp)]
  simp only [List.dropLast_concat, asData_map_byte]

end Sys2Proof.Machine
end

