-- ==== Sys2Proof/Laws/Ump.lean ====
section
/-! SUPPORT. Laws of the UMP codec: DEC_UMP by message type, the packets of a SysEx message, and how packing and unpacking
undo each other. -/

namespace Sys2Proof.Machine

/-! ### DEC_UMP by message type (R250) -/

theorem decUmp_mt0 {w0 : Word} (h : mtOf w0 = 0x0) (p : Params) :
    decUmp p [w0] = decUtility (stOf w0) (lo16 w0) (grpOf w0) := by
  unfold decUmp; simp only [h]; rfl

theorem decUmp_mt1 {w0 : Word} (h : mtOf w0 = 0x1) (p : Params) :
    decUmp p [w0] = decSystem (byte1 w0) (byte2 w0) (byte3 w0) (grpOf w0) := by
  unfold decUmp; simp only [h]; rfl

theorem decUmp_mt2 {w0 : Word} (h : mtOf w0 = 0x2) (p : Params) :
    decUmp p [w0] = decVoice1 p.noteOnV0AsNoteOff (byte1 w0) (byte2 w0) (byte3 w0) (grpOf w0) := by
  unfold decUmp; simp only [h]; rfl

theorem decUmp_mt3 {w0 : Word} (h : mtOf w0 = 0x3) (ws : List Word) (p : Params) :
    decUmp p (w0 :: ws) = decSysEx7 p.registry (w0 :: ws) := by
  unfold decUmp; simp only [h]; rfl

theorem decUmp_mt4 {w0 : Word} (h : mtOf w0 = 0x4) (w1 : Word) (p : Params) :
    decUmp p [w0, w1] = decVoice2 w0 w1 := by
  unfold decUmp; simp only [h]; rfl

theorem decUmp_mt5 {w0 : Word} (h : mtOf w0 = 0x5) (ws : List Word) (p : Params) :
    decUmp p (w0 :: ws) = decSysEx8 p.registry (w0 :: ws) := by
  unfold decUmp; simp only [h]; rfl

theorem decUmp_reserved {w0 : Word} (h : 0x6 ≤ (mtOf w0).toNat) (ws : List Word) (p : Params) :
    decUmp p (w0 :: ws) = .error (.malformed .reservedMT) := by
  unfold decUmp
  simp only [ge_iff_le, if_pos h]

theorem decUmp_length {w0 : Word} {ws : List Word} (h : mtOf w0 ∈ ([0x0, 0x1, 0x2, 0x4] : List U4))
    (hl : (w0 :: ws).length ≠ wordsOf (mtOf w0)) (p : Params) :
    decUmp p (w0 :: ws) = .error (.malformed .length) := by
  unfold decUmp
  simp only [List.mem_cons, List.not_mem_nil, or_false] at h
  have : ¬ (mtOf w0).toNat ≥ 0x6 ∧ ¬ (mtOf w0).toNat = 0x3 ∧ ¬ (mtOf w0).toNat = 0x5 := by
    rcases h with h | h | h | h <;> rw [h] <;> decide
  simp only [if_neg this.1, if_neg this.2.1, if_neg this.2.2, if_pos hl]

/-- A word is what its bytes are (R72). -/
theorem word_eq_of_fields {w w' : Word} (h0 : byte0 w = byte0 w') (h1 : byte1 w = byte1 w') (h2 : byte2 w = byte2 w')
    (h3 : byte3 w = byte3 w') : w = w' := by
  have e : ∀ w : Word, w = packBytes (byte0 w) (byte1 w) (byte2 w) (byte3 w) := by
    intro w
    unfold packBytes byte0 byte1 byte2 byte3
    ext i hi
    simp
    grind
  rw [e w, e w', h0, h1, h2, h3]

/-! ### Words as shifted fields (R155) -/

theorem packStatus_eq_fields (mt g : U4) (s a b : Byte) :
    packStatus mt g s a b = hdr mt g ||| field s 16 ||| field a 8 ||| field b 0 := by
  unfold packStatus hdr field
  ext i hi
  simp
  grind

theorem packLo16_eq_fields (mt g st ch : U4) (v : U16) :
    packLo16 mt g st ch v = hdr mt g ||| field st 20 ||| field ch 16 ||| field v 0 := by
  unfold packLo16 hdr field
  ext i hi
  simp
  grind

theorem packHalves_eq_fields (h l : U16) : packHalves h l = field h 16 ||| field l 0 := by
  unfold packHalves field
  ext i hi
  simp
  grind

theorem packBytes_eq_fields (a b c d : Byte) :
    packBytes a b c d = field a 24 ||| field b 16 ||| field c 8 ||| field d 0 := by
  unfold packBytes field
  ext i hi
  simp
  grind

@[simp] theorem field_byte (v : U7) (k : Nat) : field v.byte k = field v k := by
  unfold field U7.byte
  congr 1

@[simp] theorem field_zero (n k : Nat) : field (0 : BitVec n) k = 0 := by simp [field]

theorem field_chanStatus (nib ch : U4) : field (chanStatus nib ch) 16 = field nib 20 ||| field ch 16 := by
  unfold field chanStatus
  ext i hi
  simp
  grind

/-- The status byte of an MT 0x2 word is its nibble and its channel (R94, R103). -/
theorem byte1_eq_chanStatus (w : Word) : byte1 w = chanStatus (stOf w) (chOf w) := by
  unfold byte1 chanStatus stOf chOf
  ext i hi
  simp
  grind

end Sys2Proof.Machine
end

