-- ==== Sys2Proof/Laws/Packets.lean ====
section
/-! SUPPORT. Laws of SysEx packets: what `chunks` cuts, what stands at each place of a packet sequence, how packets split
into words, and what unpacking a packet gives. -/

namespace Sys2Proof.Machine

/-! ### Chunks (R8) -/

theorem chunksFuel_getElem? {α : Type} {k : Nat} (hk : 0 < k) (n : Nat) (xs : List α) (hn : xs.length ≤ n) (i : Nat) :
    (chunksFuel k n xs)[i]? = if k * i < xs.length then some ((xs.drop (k * i)).take k) else none := by
  induction n generalizing xs i with
  | zero =>
    have : xs = [] := List.length_eq_zero_iff.mp (Nat.le_zero.mp hn)
    simp [chunksFuel, this]
  | succ n ih =>
    rcases xs with _ | ⟨x, xs⟩
    · simp [chunksFuel]
    · rcases i with _ | i
      · simp [chunksFuel]
      · have hl : ((x :: xs).drop k).length ≤ n := by simp only [List.length_drop, List.length_cons] at *; omega
        simp only [chunksFuel, List.getElem?_cons_succ]
        rw [ih _ hl]
        have hi : k * (i + 1) = k + k * i := by ring
        rw [List.length_drop, List.drop_drop, hi]
        by_cases h : k + k * i < (x :: xs).length
        · rw [if_pos h, if_pos (by omega)]
        · rw [if_neg h, if_neg (by omega)]

/-- Chunk `i` of a list, and how many there are. -/
theorem chunks_getElem? {α : Type} {k : Nat} (hk : 0 < k) (xs : List α) (i : Nat) :
    (chunks k xs)[i]? = if k * i < xs.length then some ((xs.drop (k * i)).take k) else none :=
  chunksFuel_getElem? hk _ xs (Nat.le_refl _) i

theorem lt_ceilDiv_iff {n k i : Nat} (hk : 0 < k) : i < ceilDiv n k ↔ k * i < n := by
  unfold ceilDiv
  rw [Nat.lt_iff_add_one_le, Nat.le_div_iff_mul_le hk]
  have : (i + 1) * k = k * i + k := by ring
  rw [this]
  omega

theorem chunks_length {α : Type} {k : Nat} (hk : 0 < k) (xs : List α) :
    (chunks k xs).length = ceilDiv xs.length k := by
  have h : ∀ i, i < (chunks k xs).length ↔ i < ceilDiv xs.length k := by
    intro i
    rw [lt_ceilDiv_iff hk, ← not_iff_not, not_lt, ← List.getElem?_eq_none_iff, chunks_getElem? hk]
    by_cases h : k * i < xs.length <;> simp [h]
  rcases Nat.lt_trichotomy (chunks k xs).length (ceilDiv xs.length k) with hlt | heq | hgt
  · exact absurd ((h _).mpr hlt) (Nat.lt_irrefl _)
  · exact heq
  · exact absurd ((h _).mp hgt) (Nat.lt_irrefl _)

theorem chunksFuel_flatten {α : Type} {k : Nat} (hk : 0 < k) (n : Nat) (xs : List α) (hn : xs.length ≤ n) :
    (chunksFuel k n xs).flatten = xs := by
  induction n generalizing xs with
  | zero =>
    have : xs = [] := List.length_eq_zero_iff.mp (Nat.le_zero.mp hn)
    simp [chunksFuel, this]
  | succ n ih =>
    rcases xs with _ | ⟨x, xs⟩
    · simp [chunksFuel]
    · have hl : ((x :: xs).drop k).length ≤ n := by simp only [List.length_drop, List.length_cons] at *; omega
      simp only [chunksFuel, List.flatten_cons]
      rw [ih _ hl, List.take_append_drop]

/-- The chunks of a list joined again are the list. -/
theorem chunks_flatten {α : Type} {k : Nat} (hk : 0 < k) (xs : List α) : (chunks k xs).flatten = xs :=
  chunksFuel_flatten hk _ xs (Nat.le_refl _)

/-- A chunk has at least one element and at most `k`. -/
theorem length_of_mem_chunks {α : Type} {k : Nat} (hk : 0 < k) {xs c : List α} (h : c ∈ chunks k xs) :
    1 ≤ c.length ∧ c.length ≤ k := by
  obtain ⟨i, hi⟩ := List.mem_iff_getElem?.mp h
  rw [chunks_getElem? hk] at hi
  split at hi
  · cases hi
    simp only [List.length_take, List.length_drop]
    omega
  · cases hi

/-! ### Packet sequences (R242, R243) -/

/-- The words of packet `i` of a sequence, when every packet has `n` words. -/
theorem packetsFrom_getElem? {packet : U4 → List Byte → List Word} {n : Nat} (hn : ∀ st c, (packet st c).length = n)
    (m j : Nat) (cs : List (List Byte)) (i r : Nat) (hr : r < n) :
    (packetsFrom packet m j cs)[n * i + r]?
      = (cs[i]?).bind fun c => (packet (packetStatus (j + i) m) c)[r]? := by
  induction cs generalizing j i with
  | nil => simp [packetsFrom]
  | cons c cs ih =>
    simp only [packetsFrom]
    rcases i with _ | i
    · rw [List.getElem?_append_left (by rw [hn]; omega)]
      simp
    · have e : n * (i + 1) + r = n + (n * i + r) := by ring
      rw [List.getElem?_append_right (by rw [hn]; omega), hn, e, Nat.add_sub_cancel_left, ih]
      simp only [List.getElem?_cons_succ]
      rw [show j + 1 + i = j + (i + 1) by omega]

theorem packetsFrom_length {packet : U4 → List Byte → List Word} {n : Nat} (hn : ∀ st c, (packet st c).length = n)
    (m j : Nat) (cs : List (List Byte)) : (packetsFrom packet m j cs).length = n * cs.length := by
  induction cs generalizing j with
  | nil => simp [packetsFrom]
  | cons c cs ih =>
    simp only [packetsFrom, List.length_append, hn, ih, List.length_cons]
    ring

@[simp] theorem packet7_length (g st : U4) (c : List Byte) : (packet7 g st c).length = 2 := rfl
@[simp] theorem packet8_length (g st : U4) (sid : Byte) (c : List Byte) : (packet8 g st sid c).length = 4 := rfl

theorem packetStatus_eq_statusOf (j m : Nat) : (packetStatus j m).setWidth 32 = statusOf j m := by
  unfold packetStatus statusOf
  split
  · rfl
  · split
    · rfl
    · split <;> rfl

/-! ### Words into packets (R250) -/

/-- A list of two-word packets is read as these packets. -/
theorem pairs_flatMap {α : Type} (f : α → Word × Word) (l : List α) :
    pairs (l.flatMap fun x => [(f x).1, (f x).2]) = some (l.map f) := by
  induction l with
  | nil => rfl
  | cons x l ih => simp [pairs, ih]

/-- A list of four-word packets is read as these packets. -/
theorem quads_flatMap {α : Type} (f : α → Word × Word × Word × Word) (l : List α) :
    quads (l.flatMap fun x => [(f x).1, (f x).2.1, (f x).2.2.1, (f x).2.2.2]) = some (l.map f) := by
  induction l with
  | nil => rfl
  | cons x l ih => simp [quads, ih]

theorem pairs_length {ws : List Word} {ps : List (Word × Word)} (h : pairs ws = some ps) :
    ws.length = 2 * ps.length := by
  fun_induction pairs ws generalizing ps with
  | case1 => cases h; rfl
  | case2 => cases h
  | case3 a b rest ih =>
    simp only [Option.map_eq_some_iff] at h
    obtain ⟨qs, hq, rfl⟩ := h
    simp only [List.length_cons, ih hq]
    ring

theorem quads_length {ws : List Word} {ps : List (Word × Word × Word × Word)} (h : quads ws = some ps) :
    ws.length = 4 * ps.length := by
  fun_induction quads ws generalizing ps with
  | case1 => cases h; rfl
  | case2 a b c d rest ih =>
    simp only [Option.map_eq_some_iff] at h
    obtain ⟨qs, hq, rfl⟩ := h
    simp only [List.length_cons, ih hq]
    ring
  | case3 => cases h

theorem unpackAll_ok {α β : Type} {unpack : α → Except Err β} {f : α → β} {l : List α}
    (h : ∀ a ∈ l, unpack a = .ok (f a)) : unpackAll unpack l = .ok (l.map f) := by
  induction l with
  | nil => rfl
  | cons a l ih =>
    simp only [unpackAll, h a List.mem_cons_self, ih fun b hb => h b (List.mem_cons_of_mem _ hb), List.map_cons]

/-- The packet that first fails to unpack decides the error (R265): with an error of kind `E` in one packet, and none of
another kind before it, the sequence fails with an error of kind `E`. -/
theorem unpackAll_error {α β : Type} {unpack : α → Except Err β} {E : Err → Prop} {pre post : List α} {x : α}
    (hpre : ∀ a ∈ pre, ∀ e, unpack a = .error e → E e) (hx : ∃ e, unpack x = .error e ∧ E e) :
    ∃ e, unpackAll unpack (pre ++ x :: post) = .error e ∧ E e := by
  induction pre with
  | nil =>
    obtain ⟨e, he, hE⟩ := hx
    exact ⟨e, by simp only [List.nil_append, unpackAll, he], hE⟩
  | cons a pre ih =>
    obtain ⟨e, he, hE⟩ := ih fun b hb => hpre b (List.mem_cons_of_mem _ hb)
    rw [List.cons_append, unpackAll]
    cases ha : unpack a with
    | error e' => exact ⟨e', rfl, hpre a List.mem_cons_self e' ha⟩
    | ok q => exact ⟨e, by simp only [he], hE⟩

/-- Word `2 j` of a message of two-word packets is word 0 of packet `j`. -/
theorem pairs_getElem? {ws : List Word} {ps : List (Word × Word)} (h : pairs ws = some ps) (j : Nat) :
    ws[2 * j]? = (ps[j]?).map (·.1) := by
  fun_induction pairs ws generalizing ps j with
  | case1 => cases h; simp
  | case2 => cases h
  | case3 a b rest ih =>
    simp only [Option.map_eq_some_iff] at h
    obtain ⟨qs, hq, rfl⟩ := h
    rcases j with _ | j
    · rfl
    · exact ih hq j

/-- Word `4 j` of a message of four-word packets is word 0 of packet `j`. -/
theorem quads_getElem? {ws : List Word} {ps : List (Word × Word × Word × Word)} (h : quads ws = some ps) (j : Nat) :
    ws[4 * j]? = (ps[j]?).map (·.1) := by
  fun_induction quads ws generalizing ps j with
  | case1 => cases h; simp
  | case2 a b c d rest ih =>
    simp only [Option.map_eq_some_iff] at h
    obtain ⟨qs, hq, rfl⟩ := h
    rcases j with _ | j
    · rfl
    · exact ih hq j
  | case3 => cases h

/-- A whole number of four-word packets splits (R250). -/
theorem exists_quads : ∀ (n : Nat) (ws : List Word), ws.length = 4 * n → ∃ ps, quads ws = some ps
  | 0, [], _ => ⟨[], rfl⟩
  | n + 1, a :: b :: c :: d :: rest, h => by
    obtain ⟨ps, hps⟩ := exists_quads n rest (by simp only [List.length_cons] at h; omega)
    exact ⟨(a, b, c, d) :: ps, by simp only [quads, hps]; rfl⟩
  | 0, _ :: _, h => by simp at h
  | _ + 1, [], h => by simp at h
  | _ + 1, [_], h => by simp at h; omega
  | _ + 1, [_, _], h => by simp at h; omega
  | _ + 1, [_, _, _], h => by simp at h; omega

/-- An MT 0x3 packet that does not unpack is `Malformed` (R264). -/
theorem unpack7_error {p : Word × Word} {e : Err} (h : unpack7 p = .error e) : ∃ tag, e = .malformed tag := by
  unfold unpack7 at h
  simp only at h
  split at h
  · cases h; exact ⟨_, rfl⟩
  · split at h <;> cases h
    exact ⟨_, rfl⟩

theorem unpack7_packet {p : Word × Word} (h : 0x3 < (stOf p.1).toNat ∨ 6 < (chOf p.1).toNat) :
    unpack7 p = .error (.malformed .packet) := by
  unfold unpack7
  simp only [gt_iff_lt, if_pos h]

theorem unpack8_mixed {p : Word × Word × Word × Word} (h : stOf p.1 = 0x8 ∨ stOf p.1 = 0x9) :
    unpack8 p = .error (.unsupported .mixedData) := by
  unfold unpack8
  rcases h with h | h <;> simp [h]

theorem unpack8_packet {p : Word × Word × Word × Word} (h8 : stOf p.1 ≠ 0x8) (h9 : stOf p.1 ≠ 0x9)
    (h : 0x3 < (stOf p.1).toNat ∨ (chOf p.1).toNat = 0 ∨ 14 < (chOf p.1).toNat) :
    unpack8 p = .error (.malformed .packet) := by
  have h' : ¬((stOf p.1).toNat = 0x8 ∨ (stOf p.1).toNat = 0x9) := by
    rintro (e | e)
    · exact h8 (BitVec.eq_of_toNat_eq e)
    · exact h9 (BitVec.eq_of_toNat_eq e)
  unfold unpack8
  simp only [gt_iff_lt, if_neg h', if_pos h]

/-- An MT 0x5 packet that is no mixed data packet and does not unpack is `Malformed` (R264). -/
theorem unpack8_error {p : Word × Word × Word × Word} {e : Err} (h8 : stOf p.1 ≠ 0x8) (h9 : stOf p.1 ≠ 0x9)
    (h : unpack8 p = .error e) : ∃ tag, e = .malformed tag := by
  by_cases hb : 0x3 < (stOf p.1).toNat ∨ (chOf p.1).toNat = 0 ∨ 14 < (chOf p.1).toNat
  · rw [unpack8_packet h8 h9 hb] at h
    cases h
    exact ⟨_, rfl⟩
  · have h' : ¬((stOf p.1).toNat = 0x8 ∨ (stOf p.1).toNat = 0x9) := by
      rintro (e | e)
      · exact h8 (BitVec.eq_of_toNat_eq e)
      · exact h9 (BitVec.eq_of_toNat_eq e)
    unfold unpack8 at h
    simp only [gt_iff_lt, if_neg h', if_neg hb] at h
    cases h

/-! ### Packets of known content (R264) -/

theorem pairs_pack7 {α : Type} (f : α → U4 × U4 × Pack7) (l : List α) :
    pairs (l.flatMap fun x => (f x).2.2.words (f x).1 (f x).2.1)
      = some (l.map fun x =>
          (packWord 0x3 (f x).1 (f x).2.1 (f x).2.2.n (f x).2.2.b0 (f x).2.2.b1, (f x).2.2.w1)) :=
  pairs_flatMap
    (fun x => (packWord 0x3 (f x).1 (f x).2.1 (f x).2.2.n (f x).2.2.b0 (f x).2.2.b1, (f x).2.2.w1)) l

theorem quads_pack8 {α : Type} (f : α → U4 × U4 × Byte × Pack8) (l : List α) :
    quads (l.flatMap fun x => (f x).2.2.2.words (f x).1 (f x).2.1 (f x).2.2.1)
      = some (l.map fun x =>
          (packWord 0x5 (f x).1 (f x).2.1 (f x).2.2.2.n (f x).2.2.1 (f x).2.2.2.b0,
            (f x).2.2.2.w1, (f x).2.2.2.w2, (f x).2.2.2.w3)) :=
  quads_flatMap
    (fun x => (packWord 0x5 (f x).1 (f x).2.1 (f x).2.2.2.n (f x).2.2.1 (f x).2.2.2.b0,
      (f x).2.2.2.w1, (f x).2.2.2.w2, (f x).2.2.2.w3)) l

theorem asData_of_data {bs : List Byte} (h : ∀ b ∈ bs, isStatus b = false) : asData bs = some (bs.map Byte.low7) := by
  unfold asData
  rw [if_neg]
  simp only [List.any_eq_true, not_exists, not_and, Bool.not_eq_true]
  exact h

theorem unpack7_pack7 {g st : U4} {p : Pack7} (hs : st.toNat ≤ 0x3) (hc : p.counted)
    (hd : ∀ b ∈ p.body, isStatus b = false) :
    unpack7 (packWord 0x3 g st p.n p.b0 p.b1, p.w1) = .ok ⟨g, st, 0, p.body.map Byte.low7⟩ := by
  have hc' : p.n.toNat ≤ 6 := hc
  unfold unpack7
  simp only [chOf_packWord, stOf_packWord, byte2_packWord, byte3_packWord, grpOf_packWord]
  rw [if_neg (by omega)]
  have := asData_of_data hd
  unfold Pack7.body at this ⊢
  rw [this]

/-- A counted byte with bit 7 set is `DATA7` (R108, R264). -/
theorem unpack7_pack7_data7 {g st : U4} {p : Pack7} (hs : st.toNat ≤ 0x3) (hc : p.counted)
    (hd : ∃ b ∈ p.body, isStatus b = true) :
    unpack7 (packWord 0x3 g st p.n p.b0 p.b1, p.w1) = .error (.malformed .data7) := by
  have hc' : p.n.toNat ≤ 6 := hc
  have : asData p.body = none := by
    unfold asData
    rw [if_pos]
    simpa only [List.any_eq_true] using hd
  unfold unpack7
  simp only [chOf_packWord, stOf_packWord, byte2_packWord, byte3_packWord]
  rw [if_neg (by omega)]
  unfold Pack7.body at this
  rw [this]

theorem unpack8_pack8 {g st : U4} {sid : Byte} {p : Pack8} (hs : st.toNat ≤ 0x3) (hc : p.counted) :
    unpack8 (packWord 0x5 g st p.n sid p.b0, p.w1, p.w2, p.w3) = .ok ⟨g, st, sid, p.body⟩ := by
  obtain ⟨h1, h2⟩ := hc
  unfold unpack8
  simp only [chOf_packWord, stOf_packWord, byte2_packWord, byte3_packWord, grpOf_packWord]
  rw [if_neg (by omega), if_neg (by omega)]
  rfl

/-! ### Joining packets (R265) -/

theorem setWidth_eq_ofNat {st : U4} {k : Nat} (hk : k < 16) :
    st.setWidth 32 = BitVec.ofNat 32 k ↔ st = BitVec.ofNat 4 k := by
  constructor
  · intro h
    have h' := congrArg BitVec.toNat h
    have := st.isLt
    simp at h'
    apply BitVec.eq_of_toNat_eq
    simp
    omega
  · rintro rfl
    apply BitVec.eq_of_toNat_eq
    simp
    omega

theorem endsWell_iff {α : Type} : ∀ (ps : List (Packet α)) (j m : Nat), 0 < j → 2 ≤ m → j + ps.length = m →
    (endsWell ps = true ↔ ps ≠ [] ∧ ∀ i x, ps[i]? = some x → x.st.setWidth 32 = statusOf (j + i) m)
  | [], _, _, _, _, _ => by simp [endsWell]
  | [p], j, m, h0, h1, h2 => by
    simp only [List.length_singleton] at h2
    have hs : statusOf j m = BitVec.ofNat 32 3 := by
      unfold statusOf
      rw [if_neg (by omega), if_neg (by omega), if_pos (by omega)]
      rfl
    simp only [endsWell, beq_iff_eq]
    constructor
    · intro h
      refine ⟨by simp, ?_⟩
      rintro (_ | i) x hx
      · simp at hx
        subst hx
        rw [Nat.add_zero, hs, setWidth_eq_ofNat (by decide)]
        exact h
      · simp at hx
    · rintro ⟨_, h⟩
      have := h 0 p rfl
      rwa [Nat.add_zero, hs, setWidth_eq_ofNat (by decide)] at this
  | p :: q :: ps, j, m, h0, h1, h2 => by
    simp only [List.length_cons] at h2
    have ih := endsWell_iff (q :: ps) (j + 1) m (by omega) h1 (by simp only [List.length_cons]; omega)
    have hs : statusOf j m = BitVec.ofNat 32 2 := by
      unfold statusOf
      rw [if_neg (by omega), if_neg (by omega), if_neg (by omega)]
      rfl
    simp only [endsWell, Bool.and_eq_true, beq_iff_eq]
    rw [ih]
    constructor
    · rintro ⟨h, _, h3⟩
      refine ⟨by simp, ?_⟩
      rintro (_ | i) x hx
      · simp at hx
        subst hx
        rw [Nat.add_zero, hs, setWidth_eq_ofNat (by decide)]
        exact h
      · rw [List.getElem?_cons_succ] at hx
        rw [h3 i x hx, show j + 1 + i = j + (i + 1) by omega]
    · rintro ⟨_, h⟩
      refine ⟨?_, by simp, fun i x hx => ?_⟩
      · have := h 0 p rfl
        rwa [Nat.add_zero, hs, setWidth_eq_ofNat (by decide)] at this
      · rw [h (i + 1) x hx, show j + 1 + i = j + (i + 1) by omega]

/-- The statuses of a packet sequence are right exactly when each is that of its place. -/
theorem statusesOk_iff {α : Type} (ps : List (Packet α)) :
    statusesOk ps = true ↔ ps ≠ [] ∧ ∀ i x, ps[i]? = some x → x.st.setWidth 32 = statusOf i ps.length := by
  rcases ps with _ | ⟨p, _ | ⟨q, ps⟩⟩
  · simp [statusesOk]
  · simp only [statusesOk, beq_iff_eq]
    constructor
    · intro h
      refine ⟨by simp, ?_⟩
      rintro (_ | i) x hx
      · simp at hx
        subst hx
        exact (setWidth_eq_ofNat (k := 0) (by decide)).mpr h
      · simp at hx
    · rintro ⟨_, h⟩
      exact (setWidth_eq_ofNat (k := 0) (by decide)).mp (h 0 p rfl)
  · have hw := endsWell_iff (q :: ps) 1 (ps.length + 2) (by omega) (by omega) (by simp only [List.length_cons]; omega)
    have hs : statusOf 0 (ps.length + 2) = BitVec.ofNat 32 1 := by
      unfold statusOf
      rw [if_neg (by omega)]
      rfl
    simp only [statusesOk, Bool.and_eq_true, beq_iff_eq]
    rw [hw]
    simp only [List.length_cons]
    constructor
    · rintro ⟨h, _, h3⟩
      refine ⟨by simp, ?_⟩
      rintro (_ | i) x hx
      · simp at hx
        subst hx
        rw [hs, setWidth_eq_ofNat (by decide)]
        exact h
      · rw [List.getElem?_cons_succ] at hx
        rw [h3 i x hx, Nat.add_comm]
    · rintro ⟨_, h⟩
      refine ⟨?_, by simp, fun i x hx => ?_⟩
      · have h0 := h 0 p rfl
        rw [hs] at h0
        exact (setWidth_eq_ofNat (by decide)).mp h0
      · rw [h (i + 1) x hx, Nat.add_comm]

/-- Packets join when they share the first one's group and stream ID and their statuses are right. -/
theorem joinPackets_cons {α : Type} (build : List α → Byte → U4 → Except Err Event) (p0 : Packet α)
    (rest : List (Packet α)) :
    joinPackets build (p0 :: rest)
      = if (∀ x ∈ rest, x.g = p0.g ∧ x.sid = p0.sid) ∧ statusesOk (p0 :: rest) = true
        then build ((p0 :: rest).flatMap (·.bytes)) p0.sid p0.g else .error (.malformed .sequence) := by
  unfold joinPackets
  simp only [sameStream]
  simp

end Sys2Proof.Machine
end

