-- ==== Sys2Proof/Laws/Parser.lean ====
section
/-! SUPPORT. Laws of the stream parser: which step a byte takes, what `close` does, what a run of bytes does, and that
every step keeps the invariants of a context (R42, R43). -/

namespace Sys2Proof.Machine

/-! ### Byte classes -/

theorem isChanStatus_iff {b : Byte} : isChanStatus b = true ↔ 0x80 ≤ b.toNat ∧ b.toNat ≤ 0xEF := by
  simp [isChanStatus]

/-- A byte that is none of the system statuses takes the channel voice step (R335). -/
theorem parserStep_chan {b : Byte} (h : isChanStatus b = true) (p : Params) (g : U4) (S : Ctx) :
    parserStep p g b S = stepStatus b S := by
  obtain ⟨h1, h2⟩ := isChanStatus_iff.mp h
  have hne : ∀ c : Byte, 0xF0 ≤ c.toNat → b ≠ c := by
    rintro c hc rfl
    omega
  unfold parserStep
  rw [if_neg (by rintro (h | h | h | h | h | h) <;> exact hne _ (by decide) h),
    if_neg (by rintro (h | h) <;> exact hne _ (by decide) h), if_neg (hne _ (by decide)),
    if_neg (hne _ (by decide)), if_neg (by rintro (h | h | h | h) <;> exact hne _ (by decide) h),
    if_neg (by rintro (h | h) <;> exact hne _ (by decide) h), if_pos (by simp [isStatus, h1])]

/-- A data byte goes to the open SysEx or to a message (R333, R334). -/
@[simp] theorem parserStep_data (v : U7) (p : Params) (g : U4) (S : Ctx) :
    parserStep p g v.byte S = if S.sx then stepSysExData p v S else stepData p g v S := by
  have hv : v.byte.toNat < 0x80 := by
    have := v.isLt
    simp [U7.byte]
    omega
  have hne : ∀ c : Byte, 0x80 ≤ c.toNat → v.byte ≠ c := by
    intro c hc h
    rw [h] at hv
    omega
  unfold parserStep
  rw [if_neg (by rintro (h | h | h | h | h | h) <;> exact hne _ (by decide) h),
    if_neg (by rintro (h | h) <;> exact hne _ (by decide) h), if_neg (hne _ (by decide)),
    if_neg (hne _ (by decide)), if_neg (by rintro (h | h | h | h) <;> exact hne _ (by decide) h),
    if_neg (by rintro (h | h) <;> exact hne _ (by decide) h), if_neg (by simp), low7_byte]

/-- The steps of a byte, one for each class (R322). -/
theorem parserStep_cases (p : Params) (g : U4) (b : Byte) (S : Ctx) :
    (parserStep p g b S = stepRealTime g b S)
      ∨ (parserStep p g b S = stepReservedRealTime b S)
      ∨ (parserStep p g b S = stepSysExStart S)
      ∨ (parserStep p g b S = stepEox p g S)
      ∨ ((b = 0xF1 ∨ b = 0xF2 ∨ b = 0xF3 ∨ b = 0xF6) ∧ parserStep p g b S = stepCommon g b S)
      ∨ (parserStep p g b S = stepReservedCommon b S)
      ∨ (isChanStatus b = true ∧ parserStep p g b S = stepStatus b S)
      ∨ (S.sx = true ∧ parserStep p g b S = stepSysExData p b.low7 S)
      ∨ (S.sx = false ∧ parserStep p g b S = stepData p g b.low7 S) := by
  by_cases hc : isChanStatus b = true
  · exact .inr (.inr (.inr (.inr (.inr (.inr (.inl ⟨hc, parserStep_chan hc p g S⟩))))))
  · unfold parserStep
    split
    · exact .inl rfl
    split
    · exact .inr (.inl rfl)
    split
    · exact .inr (.inr (.inl rfl))
    split
    · exact .inr (.inr (.inr (.inl rfl)))
    split
    · exact .inr (.inr (.inr (.inr (.inl ⟨‹_›, rfl⟩))))
    split
    · exact .inr (.inr (.inr (.inr (.inr (.inl rfl)))))
    split
    · rename_i h1 h2 h3 h4 h5 h6 h7
      exfalso
      have hb := b.isLt
      simp only [isStatus, decide_eq_true_eq] at h7
      rw [isChanStatus_iff] at hc
      have : ∀ n, b.toNat = n → n < 256 → b = BitVec.ofNat 8 n := by
        rintro n rfl _
        simp
      have hge : 0xF0 ≤ b.toNat := by omega
      generalize hn : b.toNat = n at *
      interval_cases n <;> simp_all
    · split
      · exact .inr (.inr (.inr (.inr (.inr (.inr (.inr (.inl ⟨‹_›, rfl⟩)))))))
      · exact .inr (.inr (.inr (.inr (.inr (.inr (.inr (.inr ⟨by simpa using ‹¬S.sx = true›, rfl⟩)))))))

/-! ### close -/

/-- `close` emits the item of what it cuts short (R328). -/
@[simp] theorem close_items (S : Ctx) : (close S).1 = cutShort S := by
  unfold close cutShort
  cases S.sx with
  | true => rfl
  | false => cases S.pend <;> rfl

theorem cutShort_length (S : Ctx) : (cutShort S).length ≤ 1 := by
  unfold cutShort
  cases S.sx with
  | true => simp
  | false => cases S.pend <;> simp

/-- What is partial in a context is closed by `close`: nothing but the running status is left (R328, I1 to I4). -/
theorem close_eq_quiet {max : Option Nat} {S : Ctx} (h : S.Inv max) : (close S).2 = quiet S.rs := by
  unfold close quiet Ctx.reset
  cases hs : S.sx with
  | true =>
    have hp := h.sxNoPend hs
    simp [Ctx.endSysEx, hp, h.noPendNoData hp]
  | false =>
    obtain ⟨ha, ho⟩ := h.noSxNoAcc hs
    cases hp : S.pend with
    | some p => simp [Ctx.endMessage, hs, ha, ho]
    | none =>
      have hd := h.noPendNoData hp
      cases S
      simp_all

/-- A context with nothing partial is a quiet one. -/
theorem eq_quiet {max : Option Nat} {S : Ctx} (h : S.Inv max) (hs : S.sx = false) (hp : S.pend = none) :
    S = quiet S.rs := by
  rw [← close_eq_quiet h]
  unfold close
  simp [hs, hp]

theorem cutShort_of_quiet {S : Ctx} (hs : S.sx = false) (hp : S.pend = none) : cutShort S = [] := by
  simp [cutShort, hs, hp]

/-- An open SysEx has no pending message. -/
theorem eq_inSysEx {max : Option Nat} {S : Ctx} (h : S.Inv max) (hs : S.sx = true) : S = inSysEx S.rs S.acc S.ovf := by
  have hp := h.sxNoPend hs
  unfold inSysEx Ctx.reset
  rw [← hs, ← hp, ← h.noPendNoData hp]

/-- With no SysEx open there is no body. -/
theorem eq_collecting {max : Option Nat} {S : Ctx} (h : S.Inv max) (hs : S.sx = false) :
    S = { quiet S.rs with pend := S.pend, pd := S.pd } := by
  obtain ⟨ha, ho⟩ := h.noSxNoAcc hs
  cases S
  simp_all [quiet, Ctx.reset]

/-! ### Runs of bytes -/

@[simp] theorem feedBytes_nil (p : Params) (g : U4) (S : Ctx) : feedBytes p g [] S = ([], S) := rfl

theorem feedBytes_cons (p : Params) (g : U4) (b : Byte) (bs : List Byte) (S : Ctx) :
    feedBytes p g (b :: bs) S
      = ((parserStep p g b S).1 ++ (feedBytes p g bs (parserStep p g b S).2).1,
         (feedBytes p g bs (parserStep p g b S).2).2) := rfl

/-- FEED is the left fold of the step (R336). -/
theorem feedBytes_append (p : Params) (g : U4) (xs ys : List Byte) (S : Ctx) :
    feedBytes p g (xs ++ ys) S
      = ((feedBytes p g xs S).1 ++ (feedBytes p g ys (feedBytes p g xs S).2).1,
         (feedBytes p g ys (feedBytes p g xs S).2).2) := by
  induction xs generalizing S with
  | nil => simp
  | cons b bs ih => simp [feedBytes_cons, ih]

/-- A step emits at most two items (R320). -/
theorem parserStep_items_length (p : Params) (g : U4) (b : Byte) (S : Ctx) : (parserStep p g b S).1.length ≤ 2 := by
  have hc := cutShort_length S
  have he : ∀ e, (evItems e).length ≤ 1 := fun e => by cases e <;> simp [evItems]
  have hcol : ∀ s v T, (collect p g s v T).1.length ≤ 2 := fun s v T => by
    unfold collect
    simp only
    split
    · exact (he _).trans (by omega)
    · simp
  rcases parserStep_cases p g b S with h | h | h | h | ⟨_, h⟩ | h | ⟨_, h⟩ | ⟨_, h⟩ | ⟨_, h⟩ <;> rw [h]
  · exact (he _).trans (by omega)
  · simp [stepReservedRealTime]
  · simp only [stepSysExStart, close_items]
    omega
  · unfold stepEox
    split
    · simp
    · simp only [close_items, List.length_append, List.length_singleton]
      omega
  · unfold stepCommon
    split
    · simp only [close_items, List.length_append]
      have := he (commonEvent 0xF6 [] g)
      omega
    · simp only [close_items]
      omega
  · simp only [stepReservedCommon, close_items, List.length_append, List.length_singleton]
    omega
  · simp only [stepStatus, close_items]
    omega
  · simp [stepSysExData]
  · unfold stepData
    split
    · exact hcol _ _ _
    · split
      · simp
      · exact hcol _ _ _

/-! ### Collecting a message -/

/-- The event of a complete message (R334). -/
def eventOf (p : Params) (g : U4) (s : Byte) (d : List U7) : Option Event :=
  if s.toNat ≤ 0xEF then chanEvent p.noteOnV0AsNoteOff s d g else commonEvent s d g

/-- The data bytes a pending message still needs complete it (R334). -/
theorem feedBytes_collect {p : Params} {g : U4} {s : Byte} {n : Nat} (hn : need s = some n) :
    ∀ (d : List U7) (S : Ctx), S.sx = false → S.pend = some s → S.pd.length + d.length = n → d ≠ [] →
      feedBytes p g (d.map U7.byte) S = (evItems (eventOf p g s (S.pd ++ d)), S.endMessage)
  | [], _, _, _, _, h => absurd rfl h
  | [v], S, hs, hp, hl, _ => by
    have hl' : (S.pd ++ [v]).length = n := by simpa using hl
    simp only [List.map_cons, List.map_nil, feedBytes_cons, parserStep_data, hs, Bool.false_eq_true, if_false,
      stepData, hp, collect, hn, hl', if_true, feedBytes_nil, List.append_nil, eventOf]
  | v :: w :: d, S, hs, hp, hl, _ => by
    have hl' : (S.pd ++ [v]).length ≠ n := by simp at hl ⊢; omega
    rw [List.map_cons, feedBytes_cons, parserStep_data]
    simp only [hs, Bool.false_eq_true, if_false, stepData, hp, collect, hn, Option.some.injEq, if_neg (Ne.symm hl')]
    rw [feedBytes_collect hn (w :: d) ⟨S.rs, some s, S.pd ++ [v], false, S.acc, S.ovf⟩ rfl rfl
      (by simp at hl ⊢; omega) (by simp)]
    simp [Ctx.endMessage, hs]

/-- A complete channel voice message: what is partial ends, its event comes, its status is left running (R335, R334). -/
theorem feedBytes_chan {p : Params} {g : U4} {b : Byte} {d : List U7} {S : Ctx} {e : Event} {max : Option Nat}
    (hS : S.Inv max) (hb : isChanStatus b = true) (hc : isComplete b d) (he : eventOf p g b d = some e) :
    feedBytes p g (b :: d.map U7.byte) S = (cutShort S ++ [.ev e], quiet (some b)) := by
  have hd : d ≠ [] := by
    rintro rfl
    have : ∀ b : Byte, isChanStatus b = true → need b ≠ some 0 := by decide
    exact this b hb hc
  rw [feedBytes_cons, parserStep_chan hb]
  simp only [stepStatus, close_items, close_eq_quiet hS]
  rw [feedBytes_collect hc d _ rfl rfl (by simp) hd]
  simp [he, evItems, Ctx.endMessage, Ctx.expect, Ctx.running, quiet, Ctx.reset]

/-- A complete System Common message with data bytes (R332, R334). -/
theorem feedBytes_common {p : Params} {g : U4} {b : Byte} {d : List U7} {S : Ctx} {e : Event} {max : Option Nat}
    (hS : S.Inv max) (hb : b = 0xF1 ∨ b = 0xF2 ∨ b = 0xF3) (hc : isComplete b d) (he : eventOf p g b d = some e) :
    feedBytes p g (b :: d.map U7.byte) S = (cutShort S ++ [.ev e], quiet none) := by
  have hd : d ≠ [] := by
    rintro rfl
    rcases hb with rfl | rfl | rfl <;> simp [isComplete, need, nibble] at hc
  have h1 : parserStep p g b S = stepCommon g b S := by rcases hb with rfl | rfl | rfl <;> rfl
  have h2 : b ≠ 0xF6 := by rcases hb with rfl | rfl | rfl <;> decide
  rw [feedBytes_cons, h1]
  simp only [stepCommon, if_neg h2, close_items, close_eq_quiet hS]
  rw [feedBytes_collect hc d _ rfl rfl (by simp) hd]
  simp [he, evItems, Ctx.endMessage, Ctx.expect, Ctx.running, quiet, Ctx.reset]

/-- The data bytes of an open SysEx go to its accumulator, as many as it holds (R333). -/
theorem feedBytes_body (p : Params) (g : U4) (rs : Option Byte) (ovf : Bool) :
    ∀ (body acc : List U7), withinMax p.sysexMax acc.length →
      feedBytes p g (body.map U7.byte) (inSysEx rs acc ovf)
        = ([], inSysEx rs (keptBody p.sysexMax (acc ++ body)) (ovf || bodyDropped p.sysexMax (acc ++ body)))
  | [], acc, h => by
    cases hm : p.sysexMax with
    | none => simp [keptBody, bodyDropped]
    | some m =>
      have := h m hm
      simp [keptBody, bodyDropped, List.take_of_length_le this, Nat.not_lt.mpr this]
  | v :: body, acc, h => by
    rw [List.map_cons, feedBytes_cons, parserStep_data]
    cases hm : p.sysexMax with
    | none =>
      have := feedBytes_body p g rs ovf body (acc ++ [v]) (by intro m hm'; rw [hm] at hm'; cases hm')
      simp only [hm] at this
      simp [stepSysExData, Ctx.append, hm, inSysEx, Ctx.reset] at this ⊢
      simpa using this
    | some m =>
      by_cases hl : acc.length < m
      · have := feedBytes_body p g rs ovf body (acc ++ [v]) (by
          intro m' hm'
          rw [hm] at hm'
          cases hm'
          simp
          omega)
        simp only [hm] at this
        simp [stepSysExData, Ctx.append, hm, inSysEx, Ctx.reset, hl] at this ⊢
        simpa using this
      · have hlen : acc.length = m := le_antisymm (h m hm) (not_lt.mp hl)
        have := feedBytes_body p g rs true body acc h
        simp only [hm] at this
        have hk : keptBody (some m) (acc ++ v :: body) = keptBody (some m) (acc ++ body) := by
          simp [keptBody, ← hlen]
        have hd : bodyDropped (some m) (acc ++ v :: body) = true := by
          simp [bodyDropped, ← hlen]
        rw [hk, hd]
        simp [stepSysExData, Ctx.append, hm, inSysEx, Ctx.reset, hl] at this ⊢
        exact this

/-! ### The invariants -/

theorem isPendStatus_of_chan {b : Byte} (h : isChanStatus b = true) : isPendStatus b = true := by
  simp [isPendStatus, h]

/-- A status that collects data bytes takes at least one. -/
theorem need_of_isPendStatus {b : Byte} (h : isPendStatus b = true) : ∃ n, need b = some (n + 1) := by
  have key : ∀ b : Byte, isPendStatus b = true → need b = some 1 ∨ need b = some 2 := by decide
  rcases key b h with h | h
  · exact ⟨0, h⟩
  · exact ⟨1, h⟩

/-- R42's bound on the data bytes of a pending message. -/
theorem Ctx.Inv.pdShort_of_pend {max : Option Nat} {S : Ctx} {s : Byte} (h : S.Inv max) (hp : S.pend = some s) :
    ∃ n, need s = some n ∧ S.pd.length < n := by
  obtain ⟨n, hn, hl⟩ := h.pdShort
  rw [hp] at hn hl
  exact ⟨n, hn, hl.resolve_right nofun⟩

/-- R42's bound whatever is pending: at most `need(pend)` data bytes, none when nothing is (R96, I3). -/
theorem Ctx.Inv.pd_length_le {max : Option Nat} {S : Ctx} (h : S.Inv max) :
    ∃ n, needOf S.pend = some n ∧ S.pd.length ≤ n := by
  obtain ⟨n, hn, hl | hl⟩ := h.pdShort
  · exact ⟨n, hn, hl.le⟩
  · exact ⟨n, hn, by simp [h.noPendNoData hl]⟩

theorem Ctx.Inv.close {max : Option Nat} {S : Ctx} (h : S.Inv max) : (Machine.close S).2.Inv max := by
  rw [close_eq_quiet h]
  exact
    { rsRange := h.rsRange
      pendRange := nofun
      pdShort := ⟨0, rfl, .inr rfl⟩
      accShort := fun _ _ => Nat.zero_le _
      ovfBounded := fun _ => rfl
      sxNoPend := fun _ => rfl
      pendIsRunning := nofun
      noPendNoData := fun _ => rfl
      noSxNoAcc := fun _ => ⟨rfl, rfl⟩ }

/-- A quiet context has the invariants when its running status is a channel voice status. -/
theorem quiet_inv {rs : Option Byte} (h : ∀ b, rs = some b → isChanStatus b = true) (max : Option Nat) :
    (quiet rs).Inv max where
  rsRange := h
  pendRange := nofun
  pdShort := ⟨0, rfl, .inr rfl⟩
  accShort := fun _ _ => Nat.zero_le _
  ovfBounded := fun _ => rfl
  sxNoPend := fun _ => rfl
  pendIsRunning := nofun
  noPendNoData := fun _ => rfl
  noSxNoAcc := fun _ => ⟨rfl, rfl⟩

theorem stepStatus_inv {max : Option Nat} {S : Ctx} {b : Byte} (h : S.Inv max) (hb : isChanStatus b = true) :
    (stepStatus b S).2.Inv max := by
  simp only [stepStatus, close_eq_quiet h]
  obtain ⟨n, hn⟩ := need_of_isPendStatus (isPendStatus_of_chan hb)
  exact
    { rsRange := by rintro _ ⟨⟩; exact hb
      pendRange := by rintro _ ⟨⟩; exact isPendStatus_of_chan hb
      pdShort := ⟨_, hn, .inl (Nat.succ_pos _)⟩
      accShort := fun _ _ => Nat.zero_le _
      ovfBounded := fun _ => rfl
      sxNoPend := nofun
      pendIsRunning := by rintro _ ⟨⟩ _; rfl
      noPendNoData := fun _ => rfl
      noSxNoAcc := fun _ => ⟨rfl, rfl⟩ }

theorem stepCommon_inv {max : Option Nat} {S : Ctx} {g : U4} {b : Byte} (h : S.Inv max)
    (hb : b = 0xF1 ∨ b = 0xF2 ∨ b = 0xF3 ∨ b = 0xF6) : (stepCommon g b S).2.Inv max := by
  unfold stepCommon
  split
  · simp only [close_eq_quiet h]
    exact quiet_inv (rs := none) nofun max
  · rename_i h6
    have hp : isPendStatus b = true ∧ ¬ b.toNat ≤ 0xEF := by
      rcases hb with rfl | rfl | rfl | rfl <;> simp_all [isPendStatus]
    obtain ⟨n, hn⟩ := need_of_isPendStatus hp.1
    simp only [close_eq_quiet h]
    exact
      { rsRange := nofun
        pendRange := by rintro _ ⟨⟩; exact hp.1
        pdShort := ⟨_, hn, .inl (Nat.succ_pos _)⟩
        accShort := fun _ _ => Nat.zero_le _
        ovfBounded := fun _ => rfl
        sxNoPend := nofun
        pendIsRunning := by rintro _ ⟨⟩ hle; exact absurd hle hp.2
        noPendNoData := fun _ => rfl
        noSxNoAcc := fun _ => ⟨rfl, rfl⟩ }

theorem stepSysExData_inv {p : Params} {S : Ctx} {v : U7} (h : S.Inv p.sysexMax) (hs : S.sx = true) :
    (stepSysExData p v S).2.Inv p.sysexMax := by
  simp only [stepSysExData]
  have hp := h.sxNoPend hs
  refine
    { rsRange := by simpa using h.rsRange
      pendRange := by simpa using h.pendRange
      pdShort := by simpa using h.pdShort
      accShort := ?_
      ovfBounded := ?_
      sxNoPend := by simpa using h.sxNoPend
      pendIsRunning := by simpa using h.pendIsRunning
      noPendNoData := by simpa using h.noPendNoData
      noSxNoAcc := by simp [hs] }
  · intro m hm
    have := h.accShort m hm
    rw [hm]
    unfold Ctx.append
    simp only
    split
    · simp
      omega
    · exact this
  · intro hm
    rw [hm]
    exact h.ovfBounded hm

theorem collect_inv {p : Params} {g : U4} {s : Byte} {v : U7} {S : Ctx} (h : S.Inv p.sysexMax) (hs : S.sx = false)
    (hp : S.pend = some s) : (collect p g s v S).2.Inv p.sysexMax := by
  obtain ⟨ha, ho⟩ := h.noSxNoAcc hs
  obtain ⟨n, hn, hl⟩ := h.pdShort_of_pend hp
  unfold collect
  simp only
  split
  · rw [eq_collecting h hs]
    exact quiet_inv h.rsRange _
  · rename_i hne
    have hlt : (S.pd ++ [v]).length < n := by
      have : (S.pd ++ [v]).length ≠ n := fun he => hne (by rw [hn, he])
      simp at this ⊢
      omega
    exact
      { rsRange := h.rsRange
        pendRange := h.pendRange
        pdShort := ⟨n, by rw [show ({ S with pd := S.pd ++ [v] } : Ctx).pend = some s from hp]; exact hn, .inl hlt⟩
        accShort := h.accShort
        ovfBounded := h.ovfBounded
        sxNoPend := h.sxNoPend
        pendIsRunning := h.pendIsRunning
        noPendNoData := fun hb => absurd (hp.symm.trans hb) (by simp)
        noSxNoAcc := h.noSxNoAcc }

/-- Running status stands in for a status byte (R334). -/
theorem expect_inv {max : Option Nat} {S : Ctx} {s : Byte} (h : S.Inv max) (hs : S.sx = false) (hr : S.rs = some s) :
    (S.expect s).Inv max := by
  obtain ⟨n, hn⟩ := need_of_isPendStatus (isPendStatus_of_chan (h.rsRange s hr))
  exact
    { rsRange := h.rsRange
      pendRange := by rintro _ ⟨⟩; exact isPendStatus_of_chan (h.rsRange s hr)
      pdShort := ⟨_, hn, .inl (Nat.succ_pos _)⟩
      accShort := h.accShort
      ovfBounded := h.ovfBounded
      sxNoPend := fun h' => absurd (hs.symm.trans h') (by simp)
      pendIsRunning := by rintro _ ⟨⟩ _; exact hr
      noPendNoData := fun _ => rfl
      noSxNoAcc := h.noSxNoAcc }

theorem stepData_inv {p : Params} {g : U4} {v : U7} {S : Ctx} (h : S.Inv p.sysexMax) (hs : S.sx = false) :
    (stepData p g v S).2.Inv p.sysexMax := by
  unfold stepData
  split
  · exact collect_inv h hs ‹_›
  · split
    · exact h
    · exact collect_inv (expect_inv h hs ‹_›) hs rfl

/-- Every byte keeps the invariants (R43, R320). -/
theorem parserStep_inv {p : Params} {g : U4} {b : Byte} {S : Ctx} (h : S.Inv p.sysexMax) :
    (parserStep p g b S).2.Inv p.sysexMax := by
  rcases parserStep_cases p g b S with e | e | e | e | ⟨hb, e⟩ | e | ⟨hb, e⟩ | ⟨hs, e⟩ | ⟨hs, e⟩ <;>
    rw [e]
  · exact h
  · exact h
  · simp only [stepSysExStart, close_eq_quiet h]
    exact
      { rsRange := h.rsRange
        pendRange := nofun
        pdShort := ⟨0, rfl, .inr rfl⟩
        accShort := fun _ _ => Nat.zero_le _
        ovfBounded := fun _ => rfl
        sxNoPend := fun _ => rfl
        pendIsRunning := nofun
        noPendNoData := fun _ => rfl
        noSxNoAcc := nofun }
  · unfold stepEox
    split
    · rename_i hs
      rw [eq_inSysEx h hs]
      exact quiet_inv h.rsRange _
    · exact h.close
  · exact stepCommon_inv h hb
  · simp only [stepReservedCommon, close_eq_quiet h]
    exact quiet_inv (rs := none) nofun _
  · exact stepStatus_inv h hb
  · exact stepSysExData_inv h hs
  · exact stepData_inv h hs

/-- A run of bytes keeps the invariants. -/
theorem feedBytes_inv {p : Params} {g : U4} (bs : List Byte) {S : Ctx} (h : S.Inv p.sysexMax) :
    (feedBytes p g bs S).2.Inv p.sysexMax := by
  induction bs generalizing S with
  | nil => exact h
  | cons b bs ih => exact ih (parserStep_inv h)

end Sys2Proof.Machine
end

