-- ==== Sys2Proof/Laws/PerInstr.lean ====
section
/-! SUPPORT. For every instruction: the word its encoding begins with has the fixed fields of its own row of
opcode_table.json. One lemma for each constructor. -/

namespace Sys2Proof.Laws.EncodesItsRow

/-- The word a frame begins with; an operation code or a byte stands in its low bits. -/
def firstWord : Frame → Word
  | .command cells => BitVec.ofNat 32 (cells.headD 0)
  | .midi1 _ _ bytes => (bytes.headD 0).setWidth 32
  | .ump words => words.headD 0

/-- A fixed field: its lowest bit, its length and its value. -/
structure Fixed where
  lo : Nat
  len : Nat
  value : Nat

/-- The fixed fields of each row, written from opcode_table.json. -/
def row : Instr → List Fixed
  | .reset _ => [⟨0, 8, 0x1⟩]
  | .feed _ _ _ => [⟨0, 8, 0x2⟩]
  | .encM1 _ => [⟨0, 8, 0x10⟩]
  | .encUmp _ _ => [⟨0, 8, 0x11⟩]
  | .decM1 _ _ => [⟨0, 8, 0x12⟩]
  | .decUmp _ => [⟨0, 8, 0x13⟩]
  | .makeUint _ _ => [⟨0, 8, 0x20⟩]
  | .scale _ _ _ => [⟨0, 8, 0x21⟩]
  | .toBipolar _ _ => [⟨0, 8, 0x22⟩]
  | .fromBipolar _ _ => [⟨0, 8, 0x23⟩]
  | .toUnipolar _ _ => [⟨0, 8, 0x24⟩]
  | .fromUnipolar _ _ => [⟨0, 8, 0x25⟩]
  | .sysexId _ _ => [⟨0, 8, 0x30⟩]
  | .classify _ => [⟨0, 8, 0x31⟩]
  | .filter _ _ => [⟨0, 8, 0x32⟩]
  | .m1NoteOff _ _ _ _ _ => [⟨4, 4, 0x8⟩]
  | .m1NoteOn _ _ _ _ _ => [⟨4, 4, 0x9⟩]
  | .m1NotePressure _ _ _ _ _ => [⟨4, 4, 0xA⟩]
  | .m1Cc _ _ _ _ _ => [⟨4, 4, 0xB⟩]
  | .m1ProgramChange _ _ _ _ => [⟨4, 4, 0xC⟩]
  | .m1Pressure _ _ _ _ => [⟨4, 4, 0xD⟩]
  | .m1PitchBend _ _ _ _ _ => [⟨4, 4, 0xE⟩]
  | .m1SysExStart _ _ _ => [⟨0, 8, 0xF0⟩]
  | .m1TimecodeQuarterFrame _ _ _ => [⟨0, 8, 0xF1⟩]
  | .m1SongPositionPointer _ _ _ _ => [⟨0, 8, 0xF2⟩]
  | .m1SongSelect _ _ _ => [⟨0, 8, 0xF3⟩]
  | .m1ReservedF4 _ _ => [⟨0, 8, 0xF4⟩]
  | .m1ReservedF5 _ _ => [⟨0, 8, 0xF5⟩]
  | .m1TuneRequest _ _ => [⟨0, 8, 0xF6⟩]
  | .m1Eox _ _ => [⟨0, 8, 0xF7⟩]
  | .m1TimingClock _ _ => [⟨0, 8, 0xF8⟩]
  | .m1ReservedF9 _ _ => [⟨0, 8, 0xF9⟩]
  | .m1Start _ _ => [⟨0, 8, 0xFA⟩]
  | .m1Continue _ _ => [⟨0, 8, 0xFB⟩]
  | .m1Stop _ _ => [⟨0, 8, 0xFC⟩]
  | .m1ReservedFD _ _ => [⟨0, 8, 0xFD⟩]
  | .m1ActiveSensing _ _ => [⟨0, 8, 0xFE⟩]
  | .m1SystemReset _ _ => [⟨0, 8, 0xFF⟩]
  | .m1DataByte _ _ _ => [⟨7, 1, 0x0⟩]
  | .umpNoOp _ => [⟨20, 4, 0x0⟩, ⟨28, 4, 0x0⟩]
  | .umpJrClock _ _ => [⟨20, 4, 0x1⟩, ⟨28, 4, 0x0⟩]
  | .umpJrTimestamp _ _ => [⟨20, 4, 0x2⟩, ⟨28, 4, 0x0⟩]
  | .umpMt1TimecodeQuarterFrame _ _ => [⟨16, 8, 0xF1⟩, ⟨28, 4, 0x1⟩]
  | .umpMt1SongPositionPointer _ _ _ => [⟨16, 8, 0xF2⟩, ⟨28, 4, 0x1⟩]
  | .umpMt1SongSelect _ _ => [⟨16, 8, 0xF3⟩, ⟨28, 4, 0x1⟩]
  | .umpMt1TuneRequest _ => [⟨16, 8, 0xF6⟩, ⟨28, 4, 0x1⟩]
  | .umpMt1TimingClock _ => [⟨16, 8, 0xF8⟩, ⟨28, 4, 0x1⟩]
  | .umpMt1Start _ => [⟨16, 8, 0xFA⟩, ⟨28, 4, 0x1⟩]
  | .umpMt1Continue _ => [⟨16, 8, 0xFB⟩, ⟨28, 4, 0x1⟩]
  | .umpMt1Stop _ => [⟨16, 8, 0xFC⟩, ⟨28, 4, 0x1⟩]
  | .umpMt1ActiveSensing _ => [⟨16, 8, 0xFE⟩, ⟨28, 4, 0x1⟩]
  | .umpMt1SystemReset _ => [⟨16, 8, 0xFF⟩, ⟨28, 4, 0x1⟩]
  | .umpMt2NoteOff _ _ _ _ => [⟨20, 4, 0x8⟩, ⟨28, 4, 0x2⟩]
  | .umpMt2NoteOn _ _ _ _ => [⟨20, 4, 0x9⟩, ⟨28, 4, 0x2⟩]
  | .umpMt2NotePressure _ _ _ _ => [⟨20, 4, 0xA⟩, ⟨28, 4, 0x2⟩]
  | .umpMt2Cc _ _ _ _ => [⟨20, 4, 0xB⟩, ⟨28, 4, 0x2⟩]
  | .umpMt2ProgramChange _ _ _ => [⟨20, 4, 0xC⟩, ⟨28, 4, 0x2⟩]
  | .umpMt2Pressure _ _ _ => [⟨20, 4, 0xD⟩, ⟨28, 4, 0x2⟩]
  | .umpMt2PitchBend _ _ _ _ => [⟨20, 4, 0xE⟩, ⟨28, 4, 0x2⟩]
  | .umpSysEx7Complete _ _ _ _ _ _ => [⟨20, 4, 0x0⟩, ⟨28, 4, 0x3⟩]
  | .umpSysEx7Start _ _ _ _ _ _ => [⟨20, 4, 0x1⟩, ⟨28, 4, 0x3⟩]
  | .umpSysEx7Continue _ _ _ _ _ _ => [⟨20, 4, 0x2⟩, ⟨28, 4, 0x3⟩]
  | .umpSysEx7End _ _ _ _ _ _ => [⟨20, 4, 0x3⟩, ⟨28, 4, 0x3⟩]
  | .umpMt4NoteCCRegistered _ _ _ _ _ => [⟨20, 4, 0x0⟩, ⟨28, 4, 0x4⟩]
  | .umpMt4NoteCCAssignable _ _ _ _ _ => [⟨20, 4, 0x1⟩, ⟨28, 4, 0x4⟩]
  | .umpMt4RegisteredController _ _ => [⟨20, 4, 0x2⟩, ⟨28, 4, 0x4⟩]
  | .umpMt4AssignableController _ _ => [⟨20, 4, 0x3⟩, ⟨28, 4, 0x4⟩]
  | .umpMt4RelativeRegisteredController _ _ => [⟨20, 4, 0x4⟩, ⟨28, 4, 0x4⟩]
  | .umpMt4RelativeAssignableController _ _ => [⟨20, 4, 0x5⟩, ⟨28, 4, 0x4⟩]
  | .umpMt4NotePitchBend _ _ _ _ => [⟨20, 4, 0x6⟩, ⟨28, 4, 0x4⟩]
  | .umpMt4ReservedOp7 _ _ => [⟨20, 4, 0x7⟩, ⟨28, 4, 0x4⟩]
  | .umpMt4NoteOff _ _ _ _ _ _ => [⟨20, 4, 0x8⟩, ⟨28, 4, 0x4⟩]
  | .umpMt4NoteOn _ _ _ _ _ _ => [⟨20, 4, 0x9⟩, ⟨28, 4, 0x4⟩]
  | .umpMt4NotePressure _ _ _ _ => [⟨20, 4, 0xA⟩, ⟨28, 4, 0x4⟩]
  | .umpMt4Cc _ _ _ _ => [⟨20, 4, 0xB⟩, ⟨28, 4, 0x4⟩]
  | .umpMt4ProgramChange _ _ _ _ _ _ => [⟨20, 4, 0xC⟩, ⟨28, 4, 0x4⟩]
  | .umpMt4Pressure _ _ _ => [⟨20, 4, 0xD⟩, ⟨28, 4, 0x4⟩]
  | .umpMt4PitchBend _ _ _ => [⟨20, 4, 0xE⟩, ⟨28, 4, 0x4⟩]
  | .umpMt4PerNoteManagement _ _ => [⟨20, 4, 0xF⟩, ⟨28, 4, 0x4⟩]
  | .umpSysEx8Complete _ _ _ _ _ _ _ _ => [⟨20, 4, 0x0⟩, ⟨28, 4, 0x5⟩]
  | .umpSysEx8Start _ _ _ _ _ _ _ _ => [⟨20, 4, 0x1⟩, ⟨28, 4, 0x5⟩]
  | .umpSysEx8Continue _ _ _ _ _ _ _ _ => [⟨20, 4, 0x2⟩, ⟨28, 4, 0x5⟩]
  | .umpSysEx8End _ _ _ _ _ _ _ _ => [⟨20, 4, 0x3⟩, ⟨28, 4, 0x5⟩]
  | .umpMixedDataHeader _ => [⟨20, 4, 0x8⟩, ⟨28, 4, 0x5⟩]
  | .umpMixedDataPayload _ => [⟨20, 4, 0x9⟩, ⟨28, 4, 0x5⟩]
  | .umpReservedMT6 _ => [⟨28, 4, 0x6⟩]
  | .umpReservedMT7 _ => [⟨28, 4, 0x7⟩]
  | .umpReservedMT8 _ => [⟨28, 4, 0x8⟩]
  | .umpReservedMT9 _ => [⟨28, 4, 0x9⟩]
  | .umpReservedMTA _ => [⟨28, 4, 0xA⟩]
  | .umpReservedMTB _ => [⟨28, 4, 0xB⟩]
  | .umpReservedMTC _ => [⟨28, 4, 0xC⟩]
  | .umpReservedMTD _ => [⟨28, 4, 0xD⟩]
  | .umpReservedMTE _ => [⟨28, 4, 0xE⟩]
  | .umpReservedMTF _ => [⟨28, 4, 0xF⟩]

/-- A word has the value of a fixed field. -/
def Has (w : Word) (f : Fixed) : Prop := w.extractLsb' f.lo f.len = BitVec.ofNat f.len f.value

/-- The encoding of `i` begins with a word that has the fixed fields of `i`'s row. -/
def Statement (i : Instr) : Prop := ∀ f ∈ row i, Has (firstWord (encode i)) f

theorem one {w : Word} {a : Fixed} (ha : Has w a) : ∀ f ∈ [a], Has w f := by
  intro f hf
  rw [List.mem_singleton.mp hf]
  exact ha

theorem two {w : Word} {a b : Fixed} (ha : Has w a) (hb : Has w b) : ∀ f ∈ [a, b], Has w f := by
  intro f hf
  rcases List.mem_cons.mp hf with rfl | hf
  · exact ha
  · exact one hb f hf

/-! ### The fixed fields of each shape of word -/

theorem chan_field : ∀ nib ch : U4, ((chanStatus nib ch).setWidth 32 : Word).extractLsb' 4 4 = nib := by decide

theorem data_field : ∀ v : U7, (v.byte.setWidth 32 : Word).extractLsb' 7 1 = 0 := by decide

/-! ### The rows -/

theorem reset : ∀ x0, Statement (.reset x0) := fun _ => one rfl
theorem feed : ∀ x0 x1 x2, Statement (.feed x0 x1 x2) := fun _ _ _ => one rfl
theorem encM1 : ∀ x0, Statement (.encM1 x0) := fun _ => one rfl
theorem encUmp : ∀ x0 x1, Statement (.encUmp x0 x1) := fun _ _ => one rfl
theorem decM1 : ∀ x0 x1, Statement (.decM1 x0 x1) := fun _ _ => one rfl
theorem decUmp : ∀ x0, Statement (.decUmp x0) := fun _ => one rfl
theorem makeUint : ∀ x0 x1, Statement (.makeUint x0 x1) := fun _ _ => one rfl
theorem scale : ∀ x0 x1 x2, Statement (.scale x0 x1 x2) := fun _ _ _ => one rfl
theorem toBipolar : ∀ x0 x1, Statement (.toBipolar x0 x1) := fun _ _ => one rfl
theorem fromBipolar : ∀ x0 x1, Statement (.fromBipolar x0 x1) := fun _ _ => one rfl
theorem toUnipolar : ∀ x0 x1, Statement (.toUnipolar x0 x1) := fun _ _ => one rfl
theorem fromUnipolar : ∀ x0 x1, Statement (.fromUnipolar x0 x1) := fun _ _ => one rfl
theorem sysexId : ∀ x0 x1, Statement (.sysexId x0 x1) := fun _ _ => one rfl
theorem classify : ∀ x0, Statement (.classify x0) := fun _ => one rfl
theorem filter : ∀ x0 x1, Statement (.filter x0 x1) := fun _ _ => one rfl
theorem m1NoteOff : ∀ x0 x1 x2 x3 x4, Statement (.m1NoteOff x0 x1 x2 x3 x4) := fun _ _ _ _ _ => one (chan_field _ _)
theorem m1NoteOn : ∀ x0 x1 x2 x3 x4, Statement (.m1NoteOn x0 x1 x2 x3 x4) := fun _ _ _ _ _ => one (chan_field _ _)
theorem m1NotePressure : ∀ x0 x1 x2 x3 x4, Statement (.m1NotePressure x0 x1 x2 x3 x4) :=
  fun _ _ _ _ _ => one (chan_field _ _)
theorem m1Cc : ∀ x0 x1 x2 x3 x4, Statement (.m1Cc x0 x1 x2 x3 x4) := fun _ _ _ _ _ => one (chan_field _ _)
theorem m1ProgramChange : ∀ x0 x1 x2 x3, Statement (.m1ProgramChange x0 x1 x2 x3) :=
  fun _ _ _ _ => one (chan_field _ _)
theorem m1Pressure : ∀ x0 x1 x2 x3, Statement (.m1Pressure x0 x1 x2 x3) := fun _ _ _ _ => one (chan_field _ _)
theorem m1PitchBend : ∀ x0 x1 x2 x3 x4, Statement (.m1PitchBend x0 x1 x2 x3 x4) :=
  fun _ _ _ _ _ => one (chan_field _ _)
theorem m1SysExStart : ∀ x0 x1 x2, Statement (.m1SysExStart x0 x1 x2) := fun _ _ _ => one rfl
theorem m1TimecodeQuarterFrame : ∀ x0 x1 x2, Statement (.m1TimecodeQuarterFrame x0 x1 x2) := fun _ _ _ => one rfl
theorem m1SongPositionPointer : ∀ x0 x1 x2 x3, Statement (.m1SongPositionPointer x0 x1 x2 x3) :=
  fun _ _ _ _ => one rfl
theorem m1SongSelect : ∀ x0 x1 x2, Statement (.m1SongSelect x0 x1 x2) := fun _ _ _ => one rfl
theorem m1ReservedF4 : ∀ x0 x1, Statement (.m1ReservedF4 x0 x1) := fun _ _ => one rfl
theorem m1ReservedF5 : ∀ x0 x1, Statement (.m1ReservedF5 x0 x1) := fun _ _ => one rfl
theorem m1TuneRequest : ∀ x0 x1, Statement (.m1TuneRequest x0 x1) := fun _ _ => one rfl
theorem m1Eox : ∀ x0 x1, Statement (.m1Eox x0 x1) := fun _ _ => one rfl
theorem m1TimingClock : ∀ x0 x1, Statement (.m1TimingClock x0 x1) := fun _ _ => one rfl
theorem m1ReservedF9 : ∀ x0 x1, Statement (.m1ReservedF9 x0 x1) := fun _ _ => one rfl
theorem m1Start : ∀ x0 x1, Statement (.m1Start x0 x1) := fun _ _ => one rfl
theorem m1Continue : ∀ x0 x1, Statement (.m1Continue x0 x1) := fun _ _ => one rfl
theorem m1Stop : ∀ x0 x1, Statement (.m1Stop x0 x1) := fun _ _ => one rfl
theorem m1ReservedFD : ∀ x0 x1, Statement (.m1ReservedFD x0 x1) := fun _ _ => one rfl
theorem m1ActiveSensing : ∀ x0 x1, Statement (.m1ActiveSensing x0 x1) := fun _ _ => one rfl
theorem m1SystemReset : ∀ x0 x1, Statement (.m1SystemReset x0 x1) := fun _ _ => one rfl
theorem m1DataByte : ∀ x0 x1 x2, Statement (.m1DataByte x0 x1 x2) := fun _ _ _ => one (data_field _)
theorem umpNoOp : ∀ x0, Statement (.umpNoOp x0) := fun _ => two (stOf_packLo16 ..) (mtOf_packLo16 ..)
theorem umpJrClock : ∀ x0 x1, Statement (.umpJrClock x0 x1) := fun _ _ => two (stOf_packLo16 ..) (mtOf_packLo16 ..)
theorem umpJrTimestamp : ∀ x0 x1, Statement (.umpJrTimestamp x0 x1) :=
  fun _ _ => two (stOf_packLo16 ..) (mtOf_packLo16 ..)
theorem umpMt1TimecodeQuarterFrame : ∀ x0 x1, Statement (.umpMt1TimecodeQuarterFrame x0 x1) :=
  fun _ _ => two (byte1_packStatus ..) (mtOf_packStatus ..)
theorem umpMt1SongPositionPointer : ∀ x0 x1 x2, Statement (.umpMt1SongPositionPointer x0 x1 x2) :=
  fun _ _ _ => two (byte1_packStatus ..) (mtOf_packStatus ..)
theorem umpMt1SongSelect : ∀ x0 x1, Statement (.umpMt1SongSelect x0 x1) :=
  fun _ _ => two (byte1_packStatus ..) (mtOf_packStatus ..)
theorem umpMt1TuneRequest : ∀ x0, Statement (.umpMt1TuneRequest x0) :=
  fun _ => two (byte1_packStatus ..) (mtOf_packStatus ..)
theorem umpMt1TimingClock : ∀ x0, Statement (.umpMt1TimingClock x0) :=
  fun _ => two (byte1_packStatus ..) (mtOf_packStatus ..)
theorem umpMt1Start : ∀ x0, Statement (.umpMt1Start x0) := fun _ => two (byte1_packStatus ..) (mtOf_packStatus ..)
theorem umpMt1Continue : ∀ x0, Statement (.umpMt1Continue x0) :=
  fun _ => two (byte1_packStatus ..) (mtOf_packStatus ..)
theorem umpMt1Stop : ∀ x0, Statement (.umpMt1Stop x0) := fun _ => two (byte1_packStatus ..) (mtOf_packStatus ..)
theorem umpMt1ActiveSensing : ∀ x0, Statement (.umpMt1ActiveSensing x0) :=
  fun _ => two (byte1_packStatus ..) (mtOf_packStatus ..)
theorem umpMt1SystemReset : ∀ x0, Statement (.umpMt1SystemReset x0) :=
  fun _ => two (byte1_packStatus ..) (mtOf_packStatus ..)
theorem umpMt2NoteOff : ∀ x0 x1 x2 x3, Statement (.umpMt2NoteOff x0 x1 x2 x3) :=
  fun _ _ _ _ => two (stOf_packWord ..) (mtOf_packWord ..)
theorem umpMt2NoteOn : ∀ x0 x1 x2 x3, Statement (.umpMt2NoteOn x0 x1 x2 x3) :=
  fun _ _ _ _ => two (stOf_packWord ..) (mtOf_packWord ..)
theorem umpMt2NotePressure : ∀ x0 x1 x2 x3, Statement (.umpMt2NotePressure x0 x1 x2 x3) :=
  fun _ _ _ _ => two (stOf_packWord ..) (mtOf_packWord ..)
theorem umpMt2Cc : ∀ x0 x1 x2 x3, Statement (.umpMt2Cc x0 x1 x2 x3) :=
  fun _ _ _ _ => two (stOf_packWord ..) (mtOf_packWord ..)
theorem umpMt2ProgramChange : ∀ x0 x1 x2, Statement (.umpMt2ProgramChange x0 x1 x2) :=
  fun _ _ _ => two (stOf_packWord ..) (mtOf_packWord ..)
theorem umpMt2Pressure : ∀ x0 x1 x2, Statement (.umpMt2Pressure x0 x1 x2) :=
  fun _ _ _ => two (stOf_packWord ..) (mtOf_packWord ..)
theorem umpMt2PitchBend : ∀ x0 x1 x2 x3, Statement (.umpMt2PitchBend x0 x1 x2 x3) :=
  fun _ _ _ _ => two (stOf_packWord ..) (mtOf_packWord ..)
theorem umpSysEx7Complete : ∀ x0 x1 x2 x3 x4 x5, Statement (.umpSysEx7Complete x0 x1 x2 x3 x4 x5) :=
  fun _ _ _ _ _ _ => two (stOf_packWord ..) (mtOf_packWord ..)
theorem umpSysEx7Start : ∀ x0 x1 x2 x3 x4 x5, Statement (.umpSysEx7Start x0 x1 x2 x3 x4 x5) :=
  fun _ _ _ _ _ _ => two (stOf_packWord ..) (mtOf_packWord ..)
theorem umpSysEx7Continue : ∀ x0 x1 x2 x3 x4 x5, Statement (.umpSysEx7Continue x0 x1 x2 x3 x4 x5) :=
  fun _ _ _ _ _ _ => two (stOf_packWord ..) (mtOf_packWord ..)
theorem umpSysEx7End : ∀ x0 x1 x2 x3 x4 x5, Statement (.umpSysEx7End x0 x1 x2 x3 x4 x5) :=
  fun _ _ _ _ _ _ => two (stOf_packWord ..) (mtOf_packWord ..)
theorem umpMt4NoteCCRegistered : ∀ x0 x1 x2 x3 x4, Statement (.umpMt4NoteCCRegistered x0 x1 x2 x3 x4) :=
  fun _ _ _ _ _ => two (stOf_packWord ..) (mtOf_packWord ..)
theorem umpMt4NoteCCAssignable : ∀ x0 x1 x2 x3 x4, Statement (.umpMt4NoteCCAssignable x0 x1 x2 x3 x4) :=
  fun _ _ _ _ _ => two (stOf_packWord ..) (mtOf_packWord ..)
theorem umpMt4RegisteredController : ∀ x0 x1, Statement (.umpMt4RegisteredController x0 x1) :=
  fun _ _ => two (stOf_packWord ..) (mtOf_packWord ..)
theorem umpMt4AssignableController : ∀ x0 x1, Statement (.umpMt4AssignableController x0 x1) :=
  fun _ _ => two (stOf_packWord ..) (mtOf_packWord ..)
theorem umpMt4RelativeRegisteredController : ∀ x0 x1, Statement (.umpMt4RelativeRegisteredController x0 x1) :=
  fun _ _ => two (stOf_packWord ..) (mtOf_packWord ..)
theorem umpMt4RelativeAssignableController : ∀ x0 x1, Statement (.umpMt4RelativeAssignableController x0 x1) :=
  fun _ _ => two (stOf_packWord ..) (mtOf_packWord ..)
theorem umpMt4NotePitchBend : ∀ x0 x1 x2 x3, Statement (.umpMt4NotePitchBend x0 x1 x2 x3) :=
  fun _ _ _ _ => two (stOf_packWord ..) (mtOf_packWord ..)
theorem umpMt4ReservedOp7 : ∀ x0 x1, Statement (.umpMt4ReservedOp7 x0 x1) :=
  fun _ _ => two (stOf_packWord ..) (mtOf_packWord ..)
theorem umpMt4NoteOff : ∀ x0 x1 x2 x3 x4 x5, Statement (.umpMt4NoteOff x0 x1 x2 x3 x4 x5) :=
  fun _ _ _ _ _ _ => two (stOf_packWord ..) (mtOf_packWord ..)
theorem umpMt4NoteOn : ∀ x0 x1 x2 x3 x4 x5, Statement (.umpMt4NoteOn x0 x1 x2 x3 x4 x5) :=
  fun _ _ _ _ _ _ => two (stOf_packWord ..) (mtOf_packWord ..)
theorem umpMt4NotePressure : ∀ x0 x1 x2 x3, Statement (.umpMt4NotePressure x0 x1 x2 x3) :=
  fun _ _ _ _ => two (stOf_packWord ..) (mtOf_packWord ..)
theorem umpMt4Cc : ∀ x0 x1 x2 x3, Statement (.umpMt4Cc x0 x1 x2 x3) :=
  fun _ _ _ _ => two (stOf_packWord ..) (mtOf_packWord ..)
theorem umpMt4ProgramChange : ∀ x0 x1 x2 x3 x4 x5, Statement (.umpMt4ProgramChange x0 x1 x2 x3 x4 x5) :=
  fun _ _ _ _ _ _ => two (stOf_packWord ..) (mtOf_packWord ..)
theorem umpMt4Pressure : ∀ x0 x1 x2, Statement (.umpMt4Pressure x0 x1 x2) :=
  fun _ _ _ => two (stOf_packWord ..) (mtOf_packWord ..)
theorem umpMt4PitchBend : ∀ x0 x1 x2, Statement (.umpMt4PitchBend x0 x1 x2) :=
  fun _ _ _ => two (stOf_packWord ..) (mtOf_packWord ..)
theorem umpMt4PerNoteManagement : ∀ x0 x1, Statement (.umpMt4PerNoteManagement x0 x1) :=
  fun _ _ => two (stOf_packWord ..) (mtOf_packWord ..)
theorem umpSysEx8Complete : ∀ x0 x1 x2 x3 x4 x5 x6 x7, Statement (.umpSysEx8Complete x0 x1 x2 x3 x4 x5 x6 x7) :=
  fun _ _ _ _ _ _ _ _ => two (stOf_packWord ..) (mtOf_packWord ..)
theorem umpSysEx8Start : ∀ x0 x1 x2 x3 x4 x5 x6 x7, Statement (.umpSysEx8Start x0 x1 x2 x3 x4 x5 x6 x7) :=
  fun _ _ _ _ _ _ _ _ => two (stOf_packWord ..) (mtOf_packWord ..)
theorem umpSysEx8Continue : ∀ x0 x1 x2 x3 x4 x5 x6 x7, Statement (.umpSysEx8Continue x0 x1 x2 x3 x4 x5 x6 x7) :=
  fun _ _ _ _ _ _ _ _ => two (stOf_packWord ..) (mtOf_packWord ..)
theorem umpSysEx8End : ∀ x0 x1 x2 x3 x4 x5 x6 x7, Statement (.umpSysEx8End x0 x1 x2 x3 x4 x5 x6 x7) :=
  fun _ _ _ _ _ _ _ _ => two (stOf_packWord ..) (mtOf_packWord ..)
theorem umpMixedDataHeader : ∀ x0, Statement (.umpMixedDataHeader x0) :=
  fun _ => two (stOf_packWord ..) (mtOf_packWord ..)
theorem umpMixedDataPayload : ∀ x0, Statement (.umpMixedDataPayload x0) :=
  fun _ => two (stOf_packWord ..) (mtOf_packWord ..)
theorem umpReservedMT6 : ∀ x0, Statement (.umpReservedMT6 x0) := fun _ => one (mtOf_packWord ..)
theorem umpReservedMT7 : ∀ x0, Statement (.umpReservedMT7 x0) := fun _ => one (mtOf_packWord ..)
theorem umpReservedMT8 : ∀ x0, Statement (.umpReservedMT8 x0) := fun _ => one (mtOf_packWord ..)
theorem umpReservedMT9 : ∀ x0, Statement (.umpReservedMT9 x0) := fun _ => one (mtOf_packWord ..)
theorem umpReservedMTA : ∀ x0, Statement (.umpReservedMTA x0) := fun _ => one (mtOf_packWord ..)
theorem umpReservedMTB : ∀ x0, Statement (.umpReservedMTB x0) := fun _ => one (mtOf_packWord ..)
theorem umpReservedMTC : ∀ x0, Statement (.umpReservedMTC x0) := fun _ => one (mtOf_packWord ..)
theorem umpReservedMTD : ∀ x0, Statement (.umpReservedMTD x0) := fun _ => one (mtOf_packWord ..)
theorem umpReservedMTE : ∀ x0, Statement (.umpReservedMTE x0) := fun _ => one (mtOf_packWord ..)
theorem umpReservedMTF : ∀ x0, Statement (.umpReservedMTF x0) := fun _ => one (mtOf_packWord ..)

end Sys2Proof.Laws.EncodesItsRow
end

