-- ==== Sys2Proof/Laws/SysEx.lean ====
section
/-! SUPPORT. Laws of SysEx identifiers: what the domain checks are, and that an identifier is resolved from its own bytes
under a registry that R293 allows. -/

namespace Sys2Proof.Machine

/-! ### Domain checks (R90, R406) -/

theorem mem_uintWidths {N : Nat} : N ∈ uintWidths ↔ isUintWidth N = true := by
  simp [uintWidths, isUintWidth, or_assoc]

theorem mem_scaleWidths {N : Nat} : N ∈ scaleWidths ↔ isScaleWidth N = true := by
  simp [scaleWidths, isScaleWidth, or_assoc]

theorem isUint_iff {v N : Nat} : isUint v N = true ↔ v ≤ 2 ^ N - 1 := by
  have := Nat.two_pow_pos N
  simp only [isUint, decide_eq_true_eq]
  omega

@[simp] theorem admits_eq_wf (r : Registry) (id : SysExID) : admits r id = id.wf r := by cases id <;> rfl

@[simp] theorem admitsEvent_eq_wf (r : Registry) (e : Event) : admitsEvent r e = e.wf r := by
  cases e <;> rfl

/-! ### Identifiers from their own bytes (R298) -/

theorem Registry.ok_iff {r : Registry} :
    r.ok = true ↔ r.reg1 0x00 = false ∧ r.reg1 0x7E = false ∧ r.reg1 0x7F = false := by
  simp [Registry.ok, and_assoc]

theorem resolve7_idBytes7 {r : Registry} (h : r.ok = true) {id : SysExID} (hw : id.wf r = true) (rest : List U7) :
    resolve7 r (idBytes7 id ++ rest) = .ok (id, (idBytes7 id).length) := by
  obtain ⟨h0, h1, h2⟩ := Registry.ok_iff.mp h
  cases id with
  | mfr1 b =>
    simp only [SysExID.wf] at hw
    have hb : b ≠ 0x00 := by
      rintro rfl
      simp_all
    simp only [idBytes7, resolve7, List.cons_append, if_neg hb, hw, if_true]
    rfl
  | mfr3 b1 b2 =>
    simp only [SysExID.wf] at hw
    simp [idBytes7, resolve7, hw]
  | universal rt => cases rt <;> simp [idBytes7, resolve7] <;> simp_all

theorem resolve8_idBytes8 {r : Registry} (h : r.ok = true) {id : SysExID} (hw : id.wf r = true) (rest : List Byte) :
    resolve8 r (idBytes8 id ++ rest) = .ok (id, 2) := by
  obtain ⟨-, h1, h2⟩ := Registry.ok_iff.mp h
  have data : ∀ b : U7, isStatus b.byte = false ∧ b.byte.low7 = b := by decide
  cases id with
  | mfr1 b =>
    simp only [SysExID.wf] at hw
    simp only [idBytes8, resolve8, List.cons_append, data b, hw]
    simp
  | mfr3 b1 b2 =>
    simp only [SysExID.wf] at hw
    have high : ∀ b : U7, (0x80 ||| b.byte) ≠ 0x00 ∧ isStatus (0x80 ||| b.byte) = true
        ∧ (0x80 ||| b.byte : Byte).low7 = b := by decide
    simp only [idBytes8, resolve8, List.cons_append, if_neg (high b1).1, (high b1).2, data b2, hw]
    simp
  | universal rt =>
    have d7E : isStatus 0x7E = false ∧ (0x7E : Byte).low7 = 0x7E := by decide
    have d7F : isStatus 0x7F = false ∧ (0x7F : Byte).low7 = 0x7F := by decide
    cases rt
    · simp only [idBytes8, resolve8, List.cons_append, d7E, h1]
      simp
    · simp only [idBytes8, resolve8, List.cons_append, d7F, h2]
      simp

end Sys2Proof.Machine
end

