-- ==== Sys2Proof/Laws/Values.lean ====
section
/-! SUPPORT. The arithmetic of SCALE and of the bipolar and unipolar maps: the result's range, the integer form as a
rounded quotient, and the round trip of two scalings. -/

namespace Sys2Proof.Machine

theorem scaleWidths_cases {N : Nat} (h : N ∈ scaleWidths) : N = 7 ∨ N = 14 ∨ N = 16 ∨ N = 32 := by
  simpa [scaleWidths] using h

/-- The largest `U_N` as a rational. -/
theorem maxOf_cast (N : Nat) : (maxOf N : Rat) = 2 ^ N - 1 := by
  unfold maxOf
  rw [Nat.cast_sub Nat.one_le_two_pow]
  push_cast
  rfl

/-- The midpoint lies in the range. -/
theorem mid_le_max {M : Nat} (hM : 0 < M) : 2 ^ (M - 1) ≤ 2 ^ M - 1 := by
  obtain ⟨k, rfl⟩ : ∃ k, M = k + 1 := ⟨M - 1, by omega⟩
  have := Nat.two_pow_pos k
  simp only [Nat.add_sub_cancel, pow_succ]
  omega

/-- SCALE's result is in `U_M` (R141). -/
theorem scaleNat_le {v N M : Nat} (hN : 0 < N) (hM : 0 < M) (h : v ≤ 2 ^ N - 1) : scaleNat v N M ≤ 2 ^ M - 1 := by
  have h1 : 2 ≤ 2 ^ N := Nat.le_self_pow (by omega) 2
  unfold scaleNat
  split
  · subst_vars
    exact h
  split
  · exact mid_le_max hM
  apply Nat.le_of_lt_succ
  rw [Nat.div_lt_iff_lt_mul (by omega)]
  have h2 : v * (2 ^ M - 1) ≤ (2 ^ N - 1) * (2 ^ M - 1) := Nat.mul_le_mul_right _ h
  have h3 : (2 ^ M - 1).succ * (2 * (2 ^ N - 1)) = 2 * ((2 ^ N - 1) * (2 ^ M - 1)) + 2 * (2 ^ N - 1) := by
    rw [Nat.succ_mul]
    ring
  have h4 : 2 * v * (2 ^ M - 1) = 2 * (v * (2 ^ M - 1)) := by ring
  omega

/-- The integer form of R141 is the rounded quotient. -/
theorem round_div (v A B : Nat) (hA : 0 < A) :
    (((2 * v * B + A) / (2 * A) : Nat) : Int) = ⌊(v : Rat) * B / A + 1 / 2⌋ := by
  have hA' : (A : Rat) ≠ 0 := by positivity
  have e : (v : Rat) * B / A + 1 / 2 = ((2 * v * B + A : Nat) : Rat) / ((2 * A : Nat) : Rat) := by
    push_cast
    field_simp
  have h := Rat.floor_intCast_div_natCast ((2 * v * B + A : Nat) : Int) (2 * A)
  rw [Int.cast_natCast] at h
  rw [e, h]
  push_cast
  rfl

/-- Rounding a rational of `[0, m]` gives a natural number of `[0, m]` (R9). -/
theorem roundQ_range {x : Rat} {m : Nat} (h0 : 0 ≤ x) (h1 : x ≤ m) :
    ((roundQ x).toNat : Int) = ⌊x + 1 / 2⌋ ∧ (roundQ x).toNat ≤ m := by
  have e : roundQ x = ⌊x + 1 / 2⌋ := rfl
  rw [e]
  have h2 : 0 ≤ ⌊x + 1 / 2⌋ := Int.floor_nonneg.mpr (by linarith)
  have h3 : ⌊x + 1 / 2⌋ < (m : Int) + 1 := by
    rw [Int.floor_lt]
    push_cast
    linarith
  exact ⟨Int.toNat_of_nonneg h2, by omega⟩

/-- Rounding an integer gives it back. -/
theorem roundQ_natCast (v : Nat) : (roundQ (v : Rat)).toNat = v := by
  have h : roundQ (v : Rat) = ⌊(v : Rat) + 1 / 2⌋ := rfl
  have h' : ⌊(v : Rat) + 1 / 2⌋ = (v : Int) := by
    rw [Int.floor_eq_iff]
    push_cast
    constructor <;> linarith
  rw [h, h', Int.toNat_natCast]

/-- Scaling from `[0, A]` up to `[0, B]` and back by the general formula (R144). -/
theorem round_trip {A B v : Nat} (hA : 0 < A) (hAB : A < B) :
    (2 * ((2 * v * B + A) / (2 * A)) * A + B) / (2 * B) = v := by
  have h1 := Nat.div_mul_le_self (2 * v * B + A) (2 * A)
  have h2 := Nat.lt_div_mul_add (a := 2 * v * B + A) (b := 2 * A) (by omega)
  generalize (2 * v * B + A) / (2 * A) = u at *
  have e1 : 2 * u * A = u * (2 * A) := by ring
  have e2 : v * (2 * B) = 2 * v * B := by ring
  have e3 : (v + 1) * (2 * B) = 2 * v * B + 2 * B := by ring
  rw [Nat.div_eq_iff (by omega)]
  omega

/-- Downscaling is the general formula at the midpoint too (R143). -/
theorem scaleNat_down {N M u : Nat} (hN : N ∈ scaleWidths) (hM : M ∈ scaleWidths) (h : N < M) :
    scaleNat u M N = (2 * u * (2 ^ N - 1) + (2 ^ M - 1)) / (2 * (2 ^ M - 1)) := by
  unfold scaleNat
  rw [if_neg (by omega)]
  split
  · subst_vars
    rcases scaleWidths_cases hN with rfl | rfl | rfl | rfl <;> rcases scaleWidths_cases hM with rfl | rfl | rfl | rfl <;>
      first | rfl | omega
  · rfl

end Sys2Proof.Machine
end

