-- ==== Sys2Proof/Tests/Slice0.lean ====
section
/-! SUPPORT. The model's own tests. The expected results are the spec's: words written out from the tables of
30_encoding.md, and vectors of 95_test_vectors.md. First what the checks of WellFormed refuse, then one word
decoded for every constructor, then single steps. -/

namespace Sys2Proof.Tests

open Sys2Proof Sys2Proof.Machine

/-! ### What the checks refuse -/

/-- Every term is ill formed on a block with one context and the reference registry. -/
def refusedByWf (l : List Instr) : Bool := l.all fun i => !i.wf .struct 1

/-- R406: a context index at `N_CTX`. -/
theorem smoke_ctx_of_reset_and_feed : refusedByWf [.reset 1, .feed 1 0 []] = true := by decide

/-- R406: a MIDI 1.0 message arriving on a context that does not exist. -/
theorem smoke_ctx_of_midi1_rows : refusedByWf
    [.m1NoteOff 1 0 0 60 0, .m1NoteOn 1 0 0 60 0, .m1NotePressure 1 0 0 60 0, .m1Cc 1 0 0 7 0, .m1ProgramChange 1 0 0 5,
      .m1Pressure 1 0 0 5, .m1PitchBend 1 0 0 0 64, .m1SysExStart 1 0 [1], .m1TimecodeQuarterFrame 1 0 5,
      .m1SongPositionPointer 1 0 0 0, .m1SongSelect 1 0 0, .m1ReservedF4 1 0, .m1ReservedF5 1 0, .m1TuneRequest 1 0,
      .m1Eox 1 0, .m1TimingClock 1 0, .m1ReservedF9 1 0, .m1Start 1 0, .m1Continue 1 0, .m1Stop 1 0,
      .m1ReservedFD 1 0, .m1ActiveSensing 1 0, .m1SystemReset 1 0, .m1DataByte 1 0 60] = true := by decide

/-- R140, R141, R150, R151, R153, R154, R290: a width outside the operation's set. -/
theorem smoke_widths : refusedByWf
    [.makeUint 9 0, .scale 0 8 7, .scale 0 7 8, .toBipolar 0 8, .fromBipolar 0 25, .toUnipolar 0 4, .fromUnipolar 0 8,
      .sysexId [1, 2] 6] = true := by decide

/-- R90: an operand that is no `U_N`. -/
theorem smoke_values : refusedByWf [.scale 128 7 14, .toBipolar 16384 14, .toUnipolar 65536 16] = true := by decide

/-- R31: a SysEx identifier that the registry does not admit. -/
theorem smoke_identifiers : refusedByWf
    [.encM1 (.sysEx7 (.mfr1 0x7E) [] 0), .encUmp (.sysEx8 (.mfr3 0 0) [] 0 0) .M1, .classify (.sysEx7 (.mfr1 0) [] 0),
      .filter ⟨.sysEx, .only⟩ [.noOp 0, .sysEx8 (.mfr1 0x7F) [] 0 0]] = true := by decide

/-- R406, R140 (V-M, V-S, V-X): the operation's own checks refuse the same terms, with no effect. -/
theorem smoke_refused_by_the_machine : [Instr.reset 1, .feed 1 0 [0x90], .makeUint 9 0, .scale 100 7 8, .sysexId [1, 2] 6].all
    (fun i => match exec i State.reset with
      | .next t => t == State.reset.ended .refused
      | _ => false) = true := by decide

/-! ### One word of every row -/

/-- Every frame decodes to the instruction beside it. -/
def decodesTo (l : List (Frame × Instr)) : Bool :=
  l.all fun p => match decode p.1 with
    | .ok i => i == p.2
    | .error _ => false

/-- The operation codes of R90, their operands in the table's order (log entry 4). -/
theorem test_decode_commands : decodesTo
    [(.command [0x01, 3], .reset 3),
      (.command [0x02, 0, 9, 2, 0x90, 0x3C], .feed 0 9 [0x90, 0x3C]),
      (.command [0x10, 3, 7, 0, 100, 3, 2], .encM1 (.cc 7 (.m1 100) 3 2)),
      (.command [0x11, 12, 5, 1], .encUmp (.tuneRequest 5) .M2),
      (.command [0x12, 1, 0xF6, 4], .decM1 [0xF6] 4),
      (.command [0x13, 1, 0x20903C64], .decUmp [0x20903C64]),
      (.command [0x20, 7, 128], .makeUint 7 128),
      (.command [0x21, 100, 7, 32], .scale 100 7 32),
      (.command [0x22, 64, 7], .toBipolar 64 7),
      (.command [0x24, 8192, 14], .toUnipolar 8192 14),
      (.command [0x30, 2, 0x7F, 0x01, 7], .sysexId [0x7F, 0x01] 7),
      (.command [0x31, 19, 2, 1, 2, 6, 1, 0], .classify (.sysEx7 (.universal true) [6, 1] 0)),
      (.command [0x32, 4, 2, 1, 23, 2, 21, 0, 22, 5, 0], .filter ⟨.utility, .keepTypes [.noOp]⟩ [.noOp 0, .jrClock 5 0])]
    = true := by decide

/-- The operation codes 0x23 and 0x25, `FROM_BIPOLAR -1/2, 7` and `FROM_UNIPOLAR 1/3, 7`. -/
theorem test_decode_rational_commands : decodesTo
    [(.command [0x23, 1, 1, 1, 7], .fromBipolar (-1 / 2) 7), (.command [0x25, 0, 1, 2, 7], .fromUnipolar (1 / 3) 7)]
    = true := by decide +kernel

/-- The status byte map of R95, and a data byte. -/
theorem test_decode_midi1 : decodesTo
    [(.midi1 1 9 [0x8F, 0x3C, 0x40], .m1NoteOff 1 9 15 0x3C 0x40),
      (.midi1 1 9 [0x95, 0x3C, 0x64], .m1NoteOn 1 9 5 0x3C 0x64),
      (.midi1 1 9 [0xA1, 0x3C, 0x0A], .m1NotePressure 1 9 1 0x3C 0x0A),
      (.midi1 1 9 [0xB3, 0x07, 0x64], .m1Cc 1 9 3 0x07 0x64),
      (.midi1 1 9 [0xC2, 0x05], .m1ProgramChange 1 9 2 0x05),
      (.midi1 1 9 [0xDF, 0x7F], .m1Pressure 1 9 15 0x7F),
      (.midi1 1 9 [0xE5, 0x01, 0x02], .m1PitchBend 1 9 5 0x01 0x02),
      (.midi1 1 9 [0xF0], .m1SysExStart 1 9 []),
      (.midi1 1 9 [0xF1, 0x7F], .m1TimecodeQuarterFrame 1 9 0x7F),
      (.midi1 1 9 [0xF2, 0x48, 0x01], .m1SongPositionPointer 1 9 0x48 0x01),
      (.midi1 1 9 [0xF3, 0x09], .m1SongSelect 1 9 0x09),
      (.midi1 1 9 [0xF4], .m1ReservedF4 1 9),
      (.midi1 1 9 [0xF5], .m1ReservedF5 1 9),
      (.midi1 1 9 [0xF6], .m1TuneRequest 1 9),
      (.midi1 1 9 [0xF7], .m1Eox 1 9),
      (.midi1 1 9 [0xF8], .m1TimingClock 1 9),
      (.midi1 1 9 [0xF9], .m1ReservedF9 1 9),
      (.midi1 1 9 [0xFA], .m1Start 1 9),
      (.midi1 1 9 [0xFB], .m1Continue 1 9),
      (.midi1 1 9 [0xFC], .m1Stop 1 9),
      (.midi1 1 9 [0xFD], .m1ReservedFD 1 9),
      (.midi1 1 9 [0xFE], .m1ActiveSensing 1 9),
      (.midi1 1 9 [0xFF], .m1SystemReset 1 9),
      (.midi1 1 9 [0x7F], .m1DataByte 1 9 0x7F)] = true := by decide

/-- MT 0x0 (R101), MT 0x1 (R102) and MT 0x2 (R103), in group 3; a reserved nibble set changes nothing (R107). -/
theorem test_decode_one_word_umps : decodesTo
    [(.ump [0x03000000], .umpNoOp 3),
      (.ump [0x03110040], .umpJrClock 3 0x0040),
      (.ump [0x03201234], .umpJrTimestamp 3 0x1234),
      (.ump [0x13F17F00], .umpMt1TimecodeQuarterFrame 3 0x7F),
      (.ump [0x13F24801], .umpMt1SongPositionPointer 3 0x48 0x01),
      (.ump [0x13F30900], .umpMt1SongSelect 3 0x09),
      (.ump [0x13F60000], .umpMt1TuneRequest 3),
      (.ump [0x13F80000], .umpMt1TimingClock 3),
      (.ump [0x13FA0000], .umpMt1Start 3),
      (.ump [0x13FB0000], .umpMt1Continue 3),
      (.ump [0x13FC0000], .umpMt1Stop 3),
      (.ump [0x13FE0000], .umpMt1ActiveSensing 3),
      (.ump [0x13FF0000], .umpMt1SystemReset 3),
      (.ump [0x238F3C40], .umpMt2NoteOff 3 15 0x3C 0x40),
      (.ump [0x23953C80], .umpMt2NoteOn 3 5 0x3C 0x80),
      (.ump [0x23A13C0A], .umpMt2NotePressure 3 1 0x3C 0x0A),
      (.ump [0x23B40764], .umpMt2Cc 3 4 0x07 0x64),
      (.ump [0x23C20500], .umpMt2ProgramChange 3 2 0x05),
      (.ump [0x23DF7F00], .umpMt2Pressure 3 15 0x7F),
      (.ump [0x23E50102], .umpMt2PitchBend 3 5 0x01 0x02)] = true := by decide

/-- MT 0x4 (R105), in group 2 and channel 3. -/
theorem test_decode_midi2_voice_umps : decodesTo
    [(.ump [0x42033C01, 0x00000005], .umpMt4NoteCCRegistered 2 3 0x3C 0x01 5),
      (.ump [0x42133C4A, 0x12345678], .umpMt4NoteCCAssignable 2 3 0x3C 0x4A 0x12345678),
      (.ump [0x42230000, 0], .umpMt4RegisteredController 2 3),
      (.ump [0x42330000, 0], .umpMt4AssignableController 2 3),
      (.ump [0x42430000, 0], .umpMt4RelativeRegisteredController 2 3),
      (.ump [0x42530000, 0], .umpMt4RelativeAssignableController 2 3),
      (.ump [0x42633C00, 0x80000000], .umpMt4NotePitchBend 2 3 0x3C 0x80000000),
      (.ump [0x42730000, 0], .umpMt4ReservedOp7 2 3),
      (.ump [0x42833C03, 0x12343C80], .umpMt4NoteOff 2 3 0x3C 0x03 0x1234 0x3C80),
      (.ump [0x42933C03, 0x12343C80], .umpMt4NoteOn 2 3 0x3C 0x03 0x1234 0x3C80),
      (.ump [0x42A33C00, 0xFFFFFFFF], .umpMt4NotePressure 2 3 0x3C 0xFFFFFFFF),
      (.ump [0x42B30700, 0xC993264C], .umpMt4Cc 2 3 0x07 0xC993264C),
      (.ump [0x42C30001, 0x05000102], .umpMt4ProgramChange 2 3 true 0x05 0x01 0x02),
      (.ump [0x42C300FE, 0x05008080], .umpMt4ProgramChange 2 3 false 0x05 0x80 0x80),
      (.ump [0x42D30000, 0xFFFFFFFF], .umpMt4Pressure 2 3 0xFFFFFFFF),
      (.ump [0x42E30000, 0x80000000], .umpMt4PitchBend 2 3 0x80000000),
      (.ump [0x42F30000, 0], .umpMt4PerNoteManagement 2 3)] = true := by decide

/-- MT 0x3 (R104) and MT 0x5 (R106), in group 1: the fields of the first packet and the words behind it. -/
theorem test_decode_sysex_umps : decodesTo
    [(.ump [0x31014100, 0], .umpSysEx7Complete 1 1 0x41 0x00 0 []),
      (.ump [0x31160102, 0x03040506, 0x31310700, 0], .umpSysEx7Start 1 6 0x01 0x02 0x03040506 [0x31310700, 0]),
      (.ump [0x31260102, 0x03040506], .umpSysEx7Continue 1 6 0x01 0x02 0x03040506 []),
      (.ump [0x31310700, 0], .umpSysEx7End 1 1 0x07 0x00 0 []),
      (.ump [0x51040700, 0x41801234, 0, 0], .umpSysEx8Complete 1 4 0x07 0x00 0x41801234 0 0 []),
      (.ump [0x511E0700, 0x41808182, 0x83848586, 0x8788898A, 0x5132078B, 0, 0, 0],
        .umpSysEx8Start 1 14 0x07 0x00 0x41808182 0x83848586 0x8788898A [0x5132078B, 0, 0, 0]),
      (.ump [0x512E0700, 1, 2, 3], .umpSysEx8Continue 1 14 0x07 0x00 1 2 3 []),
      (.ump [0x5132078B, 0, 0, 0], .umpSysEx8End 1 2 0x07 0x8B 0 0 0 []),
      (.ump [0x51800000, 0, 0, 0], .umpMixedDataHeader 1),
      (.ump [0x51900000, 0, 0, 0], .umpMixedDataPayload 1)] = true := by decide

/-- The reserved message types (R100), in group 7, at the lengths of the table. -/
theorem test_decode_reserved_umps : decodesTo
    [(.ump [0x67000000], .umpReservedMT6 7), (.ump [0x77000000], .umpReservedMT7 7),
      (.ump [0x87000000, 0], .umpReservedMT8 7), (.ump [0x97000000, 0], .umpReservedMT9 7),
      (.ump [0xA7000000, 0], .umpReservedMTA 7), (.ump [0xB7000000, 0, 0], .umpReservedMTB 7),
      (.ump [0xC7000000, 0, 0], .umpReservedMTC 7), (.ump [0xD7000000, 0, 0, 0], .umpReservedMTD 7),
      (.ump [0xE7000000, 0, 0, 0], .umpReservedMTE 7), (.ump [0xF7000000, 0, 0, 0], .umpReservedMTF 7)]
    = true := by decide

/-- Every frame is rejected, for the reason beside it. -/
def rejects (l : List (Frame × DecodeError)) : Bool :=
  l.all fun p => match decode p.1 with
    | .ok _ => false
    | .error r => r == p.2

/-- What is no instruction is rejected by name. -/
theorem test_decode_rejections : rejects
    [(.command [], .emptyFrame), (.command [0x03, 0], .unknownOp 0x03), (.command [0x01], .missingOperand),
      (.command [0x01, 0, 0], .extraOperand), (.command [0x12, 1, 0xF6, 16], .operandOutOfType 16),
      (.command [0x11, 12, 5, 2], .operandOutOfType 2), (.command [0x10, 24, 0], .operandOutOfType 24),
      (.midi1 0 0 [], .emptyFrame), (.midi1 0 0 [0x90, 0x3C], .notOneMessage), (.midi1 0 0 [0x3C, 0x40], .notOneMessage),
      (.midi1 0 0 [0x90, 0x3C, 0x80], .notOneMessage), (.midi1 0 0 [0xF8, 0x00], .notOneMessage),
      (.ump [], .emptyFrame), (.ump [0x00300000], .noRow), (.ump [0x10F00000], .noRow), (.ump [0x20703C64], .noRow),
      (.ump [0x30400000, 0], .noRow), (.ump [0x50A00000, 0, 0, 0], .noRow), (.ump [0x20903C64, 0], .wordCount),
      (.ump [0x40903C00], .wordCount), (.ump [0x50010000, 0], .wordCount)] = true := by decide

/-- A table word is its row, with operands of zeros. -/
theorem test_decode_table_words :
    decodeTableWord 8 0x21 = some (.scale 0 0 0) ∧ decodeTableWord 8 0x92 = some (.m1NoteOn 0 0 2 0 0)
      ∧ decodeTableWord 8 0x40 = some (.m1DataByte 0 0 0x40)
      ∧ decodeTableWord 32 0x51100000 = some (.umpSysEx8Start 1 0 0 0 0 0 0 [])
      ∧ decodeTableWord 32 0x00300000 = none := by decide

/-! ### Single steps -/

/-- The state in which an instruction leaves the machine, if it answers a next state. -/
def nextOf (i : Instr) (s : State) : Option State :=
  match exec i s with
  | .next t => some t
  | _ => none

/-- From reset each instruction ends with the outcome beside it, and changes nothing else. -/
def endsWith (l : List (Instr × Result)) : Bool :=
  l.all fun p => nextOf p.1 State.reset == some (State.reset.ended p.2)

/-- V-M, T7. -/
theorem test_makeUint : endsWith
    [(.makeUint 4 15, .uint 4 15), (.makeUint 25 33554431, .uint 25 33554431), (.makeUint 7 127, .uint 7 127)]
    = true := by decide

/-- V-M: the error carries the width and the value (R401). -/
theorem test_makeUint_out_of_range : endsWith
    [(.makeUint 4 16, .err (.rangeError 4 16)), (.makeUint 32 4294967296, .err (.rangeError 32 4294967296))]
    = true := by decide +kernel

/-- V-S, T6. -/
theorem test_scale : endsWith
    [(.scale 64 7 7, .uint 7 64), (.scale 64 7 14, .uint 14 0x2000), (.scale 0x7FFF 16 7, .uint 7 63),
      (.scale 0x0102 16 7, .uint 7 0), (.scale 0x0103 16 7, .uint 7 1), (.scale 0xC993264C 32 7, .uint 7 100),
      (.scale 100 7 16, .uint 16 0xC992)] = true := by decide

/-- V-B, T5. -/
theorem test_toBipolar : endsWith
    [(.toBipolar 1 7, .rational (-63 / 64)), (.toBipolar 64 7, .rational 0), (.toBipolar 96 7, .rational (32 / 63)),
      (.toBipolar 0xFFFFFFFF 32, .rational 1)] = true := by decide +kernel

/-- V-B, T5. -/
theorem test_fromBipolar : endsWith
    [(.fromBipolar (1 / 126) 7, .uint 7 65), (.fromBipolar (-1 / 3) 7, .uint 7 43), (.fromBipolar (-1) 32, .uint 32 0),
      (.fromBipolar (1 / 2) 32, .uint 32 0xC0000000), (.fromBipolar (3 / 2) 7, .err (.rangeError 7 (3 / 2)))]
    = true := by decide +kernel

/-- V-U. -/
theorem test_toUnipolar : endsWith
    [(.toUnipolar 8192 14, .rational (8192 / 16383)), (.toUnipolar 0xC992 16, .rational (51602 / 65535))]
    = true := by decide +kernel

/-- V-U. -/
theorem test_fromUnipolar : endsWith
    [(.fromUnipolar (1 / 254) 7, .uint 7 1), (.fromUnipolar (1 / 2) 32, .uint 32 0x80000000),
      (.fromUnipolar (-1 / 10) 7, .err (.rangeError 7 (-1 / 10)))] = true := by decide +kernel

/-- V-E1. -/
theorem test_encM1 : endsWith
    [(.encM1 (.noteOff 127 (.m1 127) ⟨0, 0⟩ 15 0), .bytes [0x8F, 0x7F, 0x7F]),
      (.encM1 (.noteOn 60 (.m2 0x0102) ⟨0, 0⟩ 0 0), .bytes [0x90, 0x3C, 0x00]),
      (.encM1 (.pitchBend (.m2 0x12345678) 0 0), .bytes [0xE0, 0x0D, 0x09]),
      (.encM1 (.programChange 127 (some (127, 127)) 15 0), .bytes [0xBF, 0x00, 0x7F, 0xBF, 0x20, 0x7F, 0xCF, 0x7F]),
      (.encM1 (.songPositionPointer 200 0), .bytes [0xF2, 0x48, 0x01])] = true := by decide

/-- V-E1: SysEx, and what MIDI 1.0 cannot carry. -/
theorem test_encM1_sysEx : endsWith
    [(.encM1 (.sysEx7 (.mfr3 0x20 0x6B) [0x10] 0), .bytes [0xF0, 0x00, 0x20, 0x6B, 0x10, 0xF7]),
      (.encM1 (.sysEx7 (.universal true) [0x7F, 6, 1] 0), .bytes [0xF0, 0x7F, 0x7F, 6, 1, 0xF7]),
      (.encM1 (.sysEx8 (.mfr1 0x41) [] 0 0), .err (.unsupported (.variant .sysEx8))),
      (.encM1 (.sysEx8 (.universal true) [0xFF] 0 0), .err (.unsupported (.variant .sysEx8))),
      (.encM1 (.notePitchBend 60 0 0 0), .err (.unsupported (.variant .notePitchBend)))] = true := by decide

/-- V-D1. -/
theorem test_decM1 : endsWith
    [(.decM1 [0xFC] 3, .event (.stop 3)), (.decM1 [0xB0, 0x78, 0x00] 3, .event (.cc 120 (.m1 0) 0 3)),
      (.decM1 [0xE5, 0x01, 0x02] 3, .event (.pitchBend (.m1 257) 5 3)),
      (.decM1 [0xF2, 0x48, 0x01] 3, .event (.songPositionPointer 200 3)),
      (.decM1 [0x90, 0x3C, 0x00] 3, .event (.noteOn 60 (.m1 0) ⟨0, 0⟩ 0 3)),
      (.decM1 [0xF0, 0x00, 0x20, 0x6B, 0xF7] 3, .event (.sysEx7 (.mfr3 0x20 0x6B) [] 3))] = true := by decide

/-- V-D1: the check that decides each failure. -/
theorem test_decM1_errors : endsWith
    [(.decM1 [] 3, .err .empty), (.decM1 [0x3C] 3, .err (.malformed .noStatus)),
      (.decM1 [0x90, 0x3C, 0x64, 0x00] 3, .err (.malformed .length)),
      (.decM1 [0xD0, 0x90] 3, .err (.malformed .statusInData)), (.decM1 [0xF0, 0x01] 3, .err (.malformed .noEox)),
      (.decM1 [0xF0, 0x80, 0xF7] 3, .err (.malformed .statusInBody)),
      (.decM1 [0xF0, 0xF7] 3, .err (.malformed .emptyBody)), (.decM1 [0xFD] 3, .err (.malformed .reserved))]
    = true := by decide

/-- V-EU. -/
theorem test_encUmp : endsWith
    [(.encUmp (.noteOn 60 (.m1 100) ⟨5, 0x1234⟩ 9 0) .M1, .words [0x20993C64]),
      (.encUmp (.noteOn 60 (.m1 100) ⟨5, 0x1234⟩ 9 0) .M2, .words [0x40993C05, 0xC9921234]),
      (.encUmp (.programChange 127 (some (127, 127)) 15 0) .M2, .words [0x40CF0001, 0x7F007F7F]),
      (.encUmp (.noteCC 60 (.assignable 0x4A) 0x12345678 1 0) .M2, .words [0x40113C4A, 0x12345678]),
      (.encUmp (.noteCC 60 (.registered 1) 5 0 0) .M1, .err (.unsupported (.variant .noteCC))),
      (.encUmp (.jrTimestamp 0x1234 0) .M1, .words [0x00201234])] = true := by decide

/-- V-EU: packets. -/
theorem test_encUmp_sysEx : endsWith
    [(.encUmp (.sysEx7 (.mfr1 0x41) [1, 2, 3, 4, 5, 6] 0) .M2, .words [0x30164101, 0x02030405, 0x30310600, 0]),
      (.encUmp (.sysEx7 (.mfr1 0x41) [1, 2, 3, 4, 5] 0) .M1, .words [0x30064101, 0x02030405]),
      (.encUmp (.sysEx8 (.mfr3 0x20 0x6B) [0] 0 0) .M2, .words [0x500400A0, 0x6B000000, 0, 0]),
      (.encUmp (.sysEx8 (.mfr1 0x41) [0x80, 0x81, 0x82, 0x83, 0x84, 0x85, 0x86, 0x87, 0x88, 0x89, 0x8A, 0x8B] 7 1) .M2,
        .words [0x511E0700, 0x41808182, 0x83848586, 0x8788898A, 0x5132078B, 0, 0, 0])] = true := by decide

/-- V-DU, V-EU. -/
theorem test_decUmp : endsWith
    [(.decUmp [0x40903C80, 0], .event (.noteOn 60 (.m2 0) ⟨0x80, 0⟩ 0 0)),
      (.decUmp [0x40C00000, 0x05008080], .event (.programChange 5 none 0 0)),
      (.decUmp [0x30010180, 0], .event (.sysEx7 (.mfr1 1) [] 0)),
      (.decUmp [0x31160102, 0x03040506, 0x31310700, 0], .event (.sysEx7 (.mfr1 1) [2, 3, 4, 5, 6, 7] 1)),
      (.decUmp [0x50040000, 0x7FFF0000, 0, 0], .event (.sysEx8 (.universal true) [0xFF] 0 0))] = true := by decide

/-- V-DU: failures. -/
theorem test_decUmp_errors : endsWith
    [(.decUmp [], .err .empty), (.decUmp [0xD0000000, 0, 0, 0], .err (.malformed .reservedMT)),
      (.decUmp [0, 0], .err (.malformed .length)), (.decUmp [0x10F48000], .err (.malformed .status)),
      (.decUmp [0x20903C80], .err (.malformed .data7)), (.decUmp [0x40203C00, 0], .err (.unsupported (.opcode 2))),
      (.decUmp [0x31160102, 0x03040506, 0x32310700, 0], .err (.malformed .sequence)),
      (.decUmp [0x50900000, 0, 0, 0], .err (.unsupported .mixedData)),
      (.decUmp [0x50030041, 0, 0, 0], .err (.malformed .unregistered))] = true := by decide

/-- V-X. -/
theorem test_sysexId : endsWith
    [(.sysexId [0x41, 0x80] 7, .err (.malformed .data7)), (.sysexId [0, 0, 1, 5] 7, .sysexId (.mfr3 0 1) 3),
      (.sysexId [0, 0, 0] 7, .err (.malformed .unregistered)), (.sysexId [0x7E] 7, .sysexId (.universal false) 1),
      (.sysexId [0x80, 0x01] 8, .sysexId (.mfr3 0 1) 2), (.sysexId [0xA0, 0x80] 8, .err (.malformed .data7)),
      (.sysexId [0x41, 0] 8, .err (.malformed .unregistered)), (.sysexId [0, 0x7D] 8, .sysexId (.mfr1 0x7D) 2)]
    = true := by decide

/-- Section 7. -/
theorem test_classify : endsWith
    [(.classify (.sysEx7 (.universal false) [0x7F, 6, 1] 0), .classified .sysEx .universalSysEx7),
      (.classify (.sysEx7 (.mfr1 0x41) [] 0), .classified .sysEx .sysEx7),
      (.classify (.noteCC 60 (.registered 1) 5 0 0), .classified .chanVoice .noteCC)] = true := by decide

/-- T9. -/
theorem test_filter :
    let es : List Event := [.noOp 0, .cc 7 (.m1 1) 0 0, .jrClock 5 0, .start 0, .jrTimestamp 9 0, .noOp 0]
    endsWith
      [(.filter ⟨.utility, .drop⟩ es, .events [.cc 7 (.m1 1) 0 0, .start 0]),
        (.filter (.keepType .utility .noOp) es, .events [.noOp 0, .cc 7 (.m1 1) 0 0, .start 0, .noOp 0]),
        (.filter (.onlyType .chanVoice .noteOn) es, .events [])] = true := by decide

/-- The reset state with another record in its one context. -/
def withCtx (S : Ctx) : State := { State.reset with ctxs := [S] }

/-- A note on waiting for its velocity (section 8). -/
def collecting : Ctx := ⟨some 0x90, some 0x90, [0x3C], false, [], false⟩

/-- A SysEx open under running status 0x90. -/
def inBody : Ctx := ⟨some 0x90, none, [], true, [0x01, 0x02], false⟩

/-- On a context `S` each instruction emits these items at time 9 and leaves the context beside them. -/
def parsesTo (l : List (Ctx × Instr × List Item × Ctx)) : Bool :=
  l.all fun p => nextOf p.2.1 (withCtx p.1) == some ((withCtx p.1).emitted 0 p.2.2.2 9 p.2.2.1)

/-- T1, T2 and section 6. -/
theorem test_feed : parsesTo
    [(Ctx.reset, .feed 0 9 [0x90, 60, 100, 61, 101],
        [.ev (.noteOn 60 (.m1 100) ⟨0, 0⟩ 0 0), .ev (.noteOn 61 (.m1 101) ⟨0, 0⟩ 0 0)], quiet (some 0x90)),
      (Ctx.reset, .feed 0 9 [0xF0, 0x01, 0xF8, 0x02, 0xF7], [.ev (.timingClock 0), .ev (.sysEx7 (.mfr1 1) [2] 0)], Ctx.reset),
      (Ctx.reset, .feed 0 9 [0xF3, 5, 6], [.ev (.songSelect 5 0), .er .orphan [6]], Ctx.reset),
      (Ctx.reset, .feed 0 9 [0x90, 0x3C, 0xF7], [.er .incomplete [0x90, 0x3C], .er .strayEox [0xF7]], quiet (some 0x90)),
      (Ctx.reset, .feed 0 9 [0xF0, 0, 0, 0, 0xF7], [.er .sysexMalformed [0, 0, 0]], Ctx.reset)] = true := by decide

/-- Section 6, with `SYSEX_MAX = 2`. -/
theorem test_feed_overflow :
    let p : Params := { Params.reference with sysexMax := some 2 }
    let s : State := { State.reset with params := p }
    nextOf (.feed 0 9 [0xF0, 1, 2, 3, 0xF7]) s = some (s.emitted 0 Ctx.reset 9 [.er .sysexOverflow [1, 2]]) := by
  decide

/-- R440. -/
theorem test_reset : nextOf (.reset 0) (withCtx inBody) = some ((withCtx Ctx.reset).ended .done) := by decide

/-- Sections 6 and 8: the channel voice rows on a fresh context and on one with a partial message. -/
theorem test_midi1_voice_rows : parsesTo
    [(collecting, .m1NoteOff 0 9 0 0x3C 0x40, [.er .incomplete [0x90, 0x3C], .ev (.noteOff 60 (.m1 64) ⟨0, 0⟩ 0 0)],
        quiet (some 0x80)),
      (Ctx.reset, .m1NoteOn 0 9 0 0x3C 0x00, [.ev (.noteOn 60 (.m1 0) ⟨0, 0⟩ 0 0)], quiet (some 0x90)),
      (Ctx.reset, .m1NotePressure 0 9 1 0x3C 0x0A, [.ev (.notePressure 60 (.m1 10) 1 0)], quiet (some 0xA1)),
      (inBody, .m1Cc 0 9 0 7 100, [.er .sysexAbort [1, 2], .ev (.cc 7 (.m1 100) 0 0)], quiet (some 0xB0)),
      (Ctx.reset, .m1ProgramChange 0 9 0 5, [.ev (.programChange 5 none 0 0)], quiet (some 0xC0)),
      (Ctx.reset, .m1Pressure 0 9 5 0x10, [.ev (.pressure (.m1 16) 5 0)], quiet (some 0xD5)),
      (Ctx.reset, .m1PitchBend 0 9 0 0x00 0x40, [.ev (.pitchBend (.m1 8192) 0 0)], quiet (some 0xE0))] = true := by decide

/-- Section 6: the System rows and the data byte. -/
theorem test_midi1_system_rows : parsesTo
    [(collecting, .m1SysExStart 0 9 [1, 2, 3], [.er .incomplete [0x90, 0x3C]], inSysEx (some 0x90) [1, 2, 3] false),
      (Ctx.reset, .m1TimecodeQuarterFrame 0 9 0x7F, [.ev (.timecodeQuarterFrame 127 0)], Ctx.reset),
      (Ctx.reset, .m1SongPositionPointer 0 9 0x48 0x01, [.ev (.songPositionPointer 200 0)], Ctx.reset),
      (Ctx.reset, .m1SongSelect 0 9 5, [.ev (.songSelect 5 0)], Ctx.reset),
      (quiet (some 0x90), .m1ReservedF4 0 9, [.er .reserved [0xF4]], Ctx.reset),
      (inBody, .m1ReservedF5 0 9, [.er .sysexAbort [1, 2], .er .reserved [0xF5]], Ctx.reset),
      (collecting, .m1TuneRequest 0 9, [.er .incomplete [0x90, 0x3C], .ev (.tuneRequest 0)], Ctx.reset),
      (inBody, .m1Eox 0 9, [.ev (.sysEx7 (.mfr1 1) [2] 0)], quiet (some 0x90)),
      (inBody, .m1TimingClock 0 9, [.ev (.timingClock 0)], inBody),
      (inBody, .m1ReservedF9 0 9, [.er .reserved [0xF9]], inBody),
      (Ctx.reset, .m1Start 0 9, [.ev (.start 0)], Ctx.reset),
      (Ctx.reset, .m1Continue 0 9, [.ev (.continue_ 0)], Ctx.reset),
      (Ctx.reset, .m1Stop 0 9, [.ev (.stop 0)], Ctx.reset),
      (collecting, .m1ReservedFD 0 9, [.er .reserved [0xFD]], collecting),
      (Ctx.reset, .m1ActiveSensing 0 9, [.ev (.activeSensing 0)], Ctx.reset),
      (collecting, .m1SystemReset 0 9, [.ev (.systemReset 0)], collecting),
      (collecting, .m1DataByte 0 9 0x64, [.ev (.noteOn 60 (.m1 100) ⟨0, 0⟩ 0 0)], quiet (some 0x90)),
      (Ctx.reset, .m1DataByte 0 9 0x3C, [.er .orphan [0x3C]], Ctx.reset)] = true := by decide

/-- A UMP message at the port steps as the event of its words (V-EU, V-DU, P2). -/
theorem test_step_ump : [([0x10F24801], Result.event (.songPositionPointer 200 0)), ([0x13F28001], .err (.malformed .data7)),
      ([0x42B30700, 0xC993264C], .event (.cc 7 (.m2 0xC993264C) 3 2)), ([0x40F03C00, 0], .err (.unsupported (.opcode 15))),
      ([0x51900000, 0, 0, 0], .err (.unsupported .mixedData)), ([0xD7000000, 0, 0, 0], .err (.malformed .reservedMT)),
      ([0x00300000], .err (.malformed .status))].all
    (fun p => match step { State.reset with port := [.ump p.1, .midi1 0 0 [0xF8]] } with
      | .next t => t == State.ended { State.reset with port := [.midi1 0 0 [0xF8]] } p.2
      | _ => false) = true := by decide

/-- A table word placed for the next step is executed by it: op 0x01, RESET of context 0. -/
theorem test_step_table_word : (match step (State.reset.withFetchWord 8 0x01) with
    | .next t => t == State.reset.ended .done
    | _ => false) = true := by decide

/-! ### Witnesses: the hypotheses of each obligation are met together -/

/-- The block of the witnesses: two contexts, at the reference parameters. -/
def two (S T : Ctx) : State := { State.reset with ctxs := [S, T] }

/-- A block with `SYSEX_MAX = 2` and a registry of listed identifiers. -/
def small (S : Ctx) : State where
  params := ⟨some 2, .table [0x41] [(0x20, 0x6B)], false, [5]⟩
  ctxs := [S]
  port := []
  outcomes := []

/-- A SysEx whose accumulator filled and dropped a byte. -/
def overflowing : Ctx := ⟨none, none, [], true, [0x01, 0x02], true⟩

theorem inv_reset (max : Option Nat) : Ctx.reset.Inv max := by
  constructor <;> simp [Ctx.reset, withinMax, needOf]

theorem inv_quiet (max : Option Nat) : (quiet (some 0x90)).Inv max := by
  constructor <;> simp [quiet, Ctx.reset, withinMax, isChanStatus, needOf]

theorem inv_collecting (max : Option Nat) : collecting.Inv max := by
  constructor <;> simp [collecting, withinMax, isChanStatus, isPendStatus, needOf, need, nibble]

theorem inv_inBody : inBody.Inv (some 2) ∧ inBody.Inv none := by
  constructor <;> constructor <;> simp [inBody, withinMax, isChanStatus, needOf]

theorem inv_overflowing : overflowing.Inv (some 2) := by
  constructor <;> simp [overflowing, withinMax, needOf]

theorem witness_StepRunsTheDecodedInstruction :
    let s : State := { State.reset with port := [.midi1 0 7 [0x93, 0x3C, 0x64], .ump [0]] }
    s.port = .midi1 0 7 [0x93, 0x3C, 0x64] :: [.ump [0]]
      ∧ decode (.midi1 0 7 [0x93, 0x3C, 0x64]) = .ok (.m1NoteOn 0 7 3 60 100) := ⟨rfl, rfl⟩

theorem witness_ArrivingMessagesAreFedOrDecoded :
    ({ State.reset with port := [.midi1 0 7 [0x90, 0x3C]] } : State).port = .midi1 0 7 [0x90, 0x3C] :: []
      ∧ ({ State.reset with port := [.ump [0x00300000]] } : State).port = .ump [0x00300000] :: [] := ⟨rfl, rfl⟩

theorem witness_RejectedCommandIsRefused :
    ({ State.reset with port := [.command [0x01]] } : State).port = .command [0x01] :: []
      ∧ decode (.command [0x01]) = .error .missingOperand := ⟨rfl, rfl⟩

/-- Both sides of the equivalence occur. -/
theorem witness_RefusedExactlyOutsideTheDomain :
    exec (.scale 100 7 8) State.reset = .next (State.reset.ended .refused)
      ∧ (Instr.scale 100 7 8).wf .struct 1 = false ∧ (Instr.scale 100 7 14).wf .struct 1 = true := ⟨rfl, rfl, rfl⟩

theorem witness_StepKeepsContextInvariants :
    let s : State := { two collecting Ctx.reset with port := [.midi1 0 7 [0x64]] }
    s.Inv ∧ ∃ t, step s = .next t ∧ t.ctxs = [quiet (some 0x90), Ctx.reset] := by
  refine ⟨⟨rfl, ?_⟩, _, rfl, rfl⟩
  simp only [two, List.mem_cons, List.not_mem_nil, or_false]
  rintro S (rfl | rfl)
  · exact inv_collecting _
  · exact inv_reset _

/-- The invariants hold too of a context whose accumulator is full, under a registry of listed identifiers. -/
theorem witness_StepKeepsContextInvariants_full :
    let s : State := { small overflowing with port := [.midi1 0 7 [0xF7]] }
    s.Inv ∧ ∃ t, step s = .next t ∧ t.ctxs = [Ctx.reset] := by
  refine ⟨⟨rfl, ?_⟩, _, rfl, rfl⟩
  simp only [small, List.mem_cons, List.not_mem_nil, or_false]
  rintro S rfl
  exact inv_overflowing

theorem witness_InitialContextsAreReset : 0 < 1 ∧ 15 < 16 := by decide

theorem witness_StepKeepsOutcomesTyped :
    let s : State := { State.reset with port := [.command [0x20, 7, 127]], outcomes := [.uint 4 15] }
    s.OutcomesTyped ∧ ∃ t, step s = .next t ∧ t.outcomes = [.uint 4 15, .uint 7 127] := by
  refine ⟨?_, _, rfl, rfl⟩
  simp [State.OutcomesTyped, resultTyped]

/-- A pure operation that fails, one that does not, and an operation on a context. -/
theorem witness_FailedOperationHasNoEffect :
    (∃ t, exec (.decM1 [0xB3, 0x07] 2) State.reset = .next t
        ∧ t.outcomes = State.reset.outcomes ++ [.err (.malformed .length)])
      ∧ (∃ t, exec (.scale 64 7 14) State.reset = .next t ∧ contextOf (.scale 64 7 14) = none)
      ∧ ∃ t, exec (.feed 0 1 [0xF0, 0xF7]) State.reset = .next t ∧ contextOf (.feed 0 1 [0xF0, 0xF7]) ≠ none :=
  ⟨⟨_, rfl, rfl⟩, ⟨_, rfl, rfl⟩, _, rfl, by decide⟩

theorem witness_OperationsEndWithOneOutcome :
    (∃ t, exec (.m1NoteOn 0 7 0 60 100) State.reset = .next t)
      ∧ contextOf (.makeUint 7 5) = none ∧ (two collecting inBody).params = State.reset.params :=
  ⟨⟨_, rfl⟩, rfl, rfl⟩

theorem witness_ErrorKindsOfEachOperation :
    exec (.decUmp [0x40203C00, 0]) State.reset = .next (State.reset.ended (.err (.unsupported (.opcode 2)))) := rfl

/-- A FEED of context 0 leaves context 1 alone, and two states that agree only on context 0. -/
theorem witness_ContextsAreIndependent :
    (∃ t, exec (.feed 0 1 [0x64]) (two collecting inBody) = .next t ∧ contextOf (.feed 0 1 [0x64]) ≠ some 1)
      ∧ contextOf (.feed 0 1 [0x64]) = some 0
      ∧ (two collecting inBody).params = (two collecting Ctx.reset).params
      ∧ (two collecting inBody).ctxs[0]? = (two collecting Ctx.reset).ctxs[0]?
      ∧ (∃ s', exec (.feed 0 1 [0x64]) (two collecting inBody) = .next s')
      ∧ ∃ u', exec (.feed 0 1 [0x64]) (two collecting Ctx.reset) = .next u' :=
  ⟨⟨_, rfl, by decide⟩, rfl, rfl, rfl, ⟨_, rfl⟩, _, rfl⟩

theorem witness_OperationsOnDifferentContextsCommute :
    contextOf (.feed 0 1 [0x64]) = some 0 ∧ contextOf (.reset 1) = some 1 ∧ 0 ≠ 1
      ∧ ∃ t t' u u', exec (.feed 0 1 [0x64]) (two collecting inBody) = .next t ∧ exec (.reset 1) t = .next t'
        ∧ exec (.reset 1) (two collecting inBody) = .next u ∧ exec (.feed 0 1 [0x64]) u = .next u' :=
  ⟨rfl, rfl, by decide, _, _, _, _, rfl, rfl, rfl, rfl⟩

theorem witness_ResetClearsItsContext : 1 < (two collecting inBody).nCtx ∧ (two collecting inBody).nCtx ≤ 2 := by decide

/-- The largest value of the narrowest and of the widest width, and one more. -/
theorem witness_MakeUintChecksItsRange :
    4 ∈ uintWidths ∧ 32 ∈ uintWidths ∧ 15 ≤ 2 ^ 4 - 1 ∧ 4294967295 ≤ 2 ^ 32 - 1 ∧ 16 > 2 ^ 4 - 1
      ∧ 4294967296 > 2 ^ 32 - 1 := by decide

/-- Equal widths, the midpoint, and the largest value. -/
theorem witness_ScaleIsTheRoundedQuotient :
    7 ∈ scaleWidths ∧ 32 ∈ scaleWidths ∧ 64 ≤ 2 ^ 7 - 1 ∧ 7 = 7 ∧ 7 ≠ 32 ∧ 64 = 2 ^ (7 - 1)
      ∧ 127 ≤ 2 ^ 7 - 1 ∧ 127 ≠ 2 ^ (7 - 1) := by decide

theorem witness_ScaleUpThenDownIsTheIdentity :
    16 ∈ scaleWidths ∧ 32 ∈ scaleWidths ∧ 16 < 32 ∧ 65535 ≤ 2 ^ 16 - 1 ∧ 65534 < 65535
      ∧ 4294967294 ≤ 4294967295 ∧ 4294967295 ≤ 2 ^ 32 - 1 := by decide

/-- Both ends and both sides of the midpoint. -/
theorem witness_ToBipolarIsTwoSegments :
    7 ∈ scaleWidths ∧ 0 < 2 ^ (7 - 1) ∧ 63 < 2 ^ (7 - 1) ∧ 2 ^ (7 - 1) ≤ 64 ∧ 127 = 2 ^ 7 - 1 := by decide

/-- Outside on both sides, both ends, and both segments. -/
theorem witness_FromBipolarRoundsOrRaises :
    7 ∈ scaleWidths ∧ (-2 : Rat) < -1 ∧ (1 : Rat) < 3 / 2 ∧ (-1 : Rat) ≤ -1 ∧ (-1 : Rat) ≤ 1 ∧ (-1 / 128 : Rat) < 0
      ∧ (0 : Rat) ≤ 0 ∧ (-1 : Rat) ≤ 0 ∧ (0 : Rat) ≤ 1 ∧ (1 : Rat) ≤ 1 := by decide +kernel

/-- A grid point, and 1/3, which FROM_BIPOLAR maps although no value maps to it (V-B). -/
theorem witness_BipolarRoundTrip :
    7 ∈ scaleWidths ∧ 127 ≤ 2 ^ 7 - 1
      ∧ exec (.fromBipolar (1 / 3) 7) State.reset = .next (State.reset.ended (.uint 7 85)) :=
  ⟨by decide, by decide, by
    have h : nextOf (.fromBipolar (1 / 3) 7) State.reset = some (State.reset.ended (.uint 7 85)) := by decide +kernel
    unfold nextOf at h
    split at h <;> simp_all⟩

theorem witness_UnipolarMaps :
    32 ∈ scaleWidths ∧ 4294967295 ≤ 2 ^ 32 - 1 ∧ (-1 / 10 : Rat) < 0 ∧ (1 : Rat) < 11 / 10 ∧ (0 : Rat) ≤ 0
      ∧ (0 : Rat) ≤ 1 ∧ (1 : Rat) ≤ 1 := by decide +kernel

/-- Registered identifiers of both lengths, at the ends of their ranges, and of a sysEx8 that MIDI 1.0 lacks. -/
theorem witness_EncodeMidi1SysExOrUnsupported :
    State.reset.params.registry.reg1 0x01 = true ∧ State.reset.params.registry.reg1 0x7D = true
      ∧ State.reset.params.registry.reg3 0x00 0x01 = true
      ∧ (SysExID.universal true).wf State.reset.params.registry = true
      ∧ (SysExID.mfr3 0x00 0x01).wf State.reset.params.registry = true := by decide

/-- A witness of each clause, the boundary bytes 7F and 80 among them. -/
theorem witness_DecodeMidi1ChecksInOrder :
    (0x7F : Byte).toNat < 0x80 ∧ ([0x01] : List Byte).getLast? ≠ some 0xF7 ∧ ([] : List Byte).getLast? ≠ some 0xF7
      ∧ (∃ b ∈ ([0x01, 0x80] : List Byte), 0x80 ≤ b.toNat)
      ∧ (0xF7 : Byte) ∈ ([0xF4, 0xF5, 0xF7, 0xF9, 0xFD] : List Byte)
      ∧ (0xF8 : Byte) ≠ 0xF9 ∧ (0xF8 : Byte) ≠ 0xFD ∧ need 0xF8 = some 0 ∧ ([0x00] : List Byte).length ≠ 0
      ∧ (0x90 : Byte) ≠ 0xF9 ∧ (0x90 : Byte) ≠ 0xFD ∧ need 0x90 = some ([0x3C, 0x80] : List Byte).length
      ∧ (∃ d ∈ ([0x3C, 0x80] : List Byte), 0x80 ≤ d.toNat)
      ∧ isComplete 0x90 [0x3C, 0x64] ∧ isComplete 0xF8 [] := by decide

/-- A representable event, and one whose velocity byte is 0 on a block that reads that as a note off. -/
theorem witness_Midi1RoundTrip :
    (Event.cc 7 (.m2 0xC993264C) 3 2).wf State.reset.params.registry = true
      ∧ representableM1 (.cc 7 (.m2 0xC993264C) 3 2) = true ∧ State.reset.params.registry.ok = true
      ∧ State.reset.params.noteOnV0AsNoteOff = false
      ∧ ({ State.reset with params := { Params.reference with noteOnV0AsNoteOff := true } } : State).params.noteOnV0AsNoteOff
        = true
      ∧ lo (.m2 0x0102 : V7_16) = 0 := by decide

/-- Bodies of 6 and 7 bytes, and of 13 and 14, at their last packets. -/
theorem witness_EncodeUmpSysExPackets :
    (SysExID.mfr1 0x41).wf State.reset.params.registry = true
      ∧ ([0x41, 1, 2, 3, 4, 5, 6] : List Byte) = (idBytes7 (.mfr1 0x41) ++ [1, 2, 3, 4, 5, 6]).map U7.byte
      ∧ 0 < ceilDiv 6 6 ∧ 1 < ceilDiv 7 6
      ∧ ([0x00, 0x41, 0x80] : List Byte) = idBytes8 (.mfr1 0x41) ++ [0x80] ∧ 0 < ceilDiv 13 13 ∧ 1 < ceilDiv 14 13
      ∧ 2 < 3 := by decide

theorem witness_DecodeUmpChecksInOrder :
    0x6 ≤ (mtOf 0x60000000).toNat ∧ 0x6 ≤ (mtOf 0xF0000000).toNat
      ∧ mtOf 0x30010100 = 0x3 ∧ ([0x30010100] : List Word).length % 2 ≠ 0
      ∧ mtOf 0x50010000 = 0x5 ∧ ([0x50010000, 0, 0] : List Word).length % 4 ≠ 0
      ∧ mtOf 0x20903C64 ∈ ([0x0, 0x1, 0x2] : List U4) ∧ ([0x20903C64, 0] : List Word).length ≠ 1
      ∧ mtOf 0x40903C00 = 0x4 ∧ ([0x40903C00] : List Word).length ≠ 2 := by decide

/-- A word for each form, at the boundaries of its range. -/
theorem witness_MalformedUmpForms :
    0x6 ≤ (mtOf 0x60000000).toNat ∧ (mtOf 0x00300000 = 0x0 ∧ 0x3 ≤ (stOf 0x00300000).toNat)
      ∧ (mtOf 0x10F00000 = 0x1
        ∧ byte1 0x10F00000 ∉ ([0xF1, 0xF2, 0xF3, 0xF6, 0xF8, 0xFA, 0xFB, 0xFC, 0xFE, 0xFF] : List Byte))
      ∧ (mtOf 0x20703C64 = 0x2 ∧ (stOf 0x20703C64).toNat < 0x8) ∧ (mtOf 0x20F00000 = 0x2 ∧ stOf 0x20F00000 = 0xF)
      ∧ (mtOf 0x30460102 = 0x3 ∧ ([0x30460102, 0] : List Word)[2 * 0]? = some 0x30460102
        ∧ 0x4 ≤ (stOf 0x30460102).toNat)
      ∧ (mtOf 0x30160102 = 0x3 ∧ ([0x30160102, 0, 0x30370102, 0] : List Word)[2 * 1]? = some 0x30370102
        ∧ 6 < (chOf 0x30370102).toNat)
      ∧ (mtOf 0x40703C00 = 0x4 ∧ stOf 0x40703C00 = 0x7)
      ∧ (mtOf 0x50410000 = 0x5 ∧ ([0x50410000, 0, 0, 0] : List Word)[4 * 0]? = some 0x50410000
        ∧ 0x4 ≤ (stOf 0x50410000).toNat ∧ (stOf 0x50410000).toNat ≤ 0x7)
      ∧ (mtOf 0x51130041 = 0x5 ∧ ([0x51130041, 0, 0, 0, 0x51F00000, 0, 0, 0] : List Word)[4 * 1]? = some 0x51F00000
        ∧ (stOf 0x51130041 ≠ 0x8 ∧ stOf 0x51130041 ≠ 0x9) ∧ 0xA ≤ (stOf 0x51F00000).toNat)
      ∧ (stOf 0x50000000 ≠ 0x8 ∧ stOf 0x50000000 ≠ 0x9 ∧ chOf 0x50000000 = 0)
      ∧ (stOf 0x503F0000 ≠ 0x8 ∧ stOf 0x503F0000 ≠ 0x9 ∧ chOf 0x503F0000 = 15)
      ∧ ((mtOf 0x40903C00).toNat ≤ 0x5 ∧ ([0x40903C00] : List Word).length % wordsOf (mtOf 0x40903C00) ≠ 0)
      ∧ (mtOf 0 ∈ ([0x0, 0x1, 0x2, 0x4] : List U4) ∧ ([0, 0] : List Word).length ≠ wordsOf (mtOf 0)) := by decide

/-- For each clause a pair of words that differ only in reserved bits. -/
theorem witness_ReservedFieldsAreIgnored :
    (mtOf 0x00000000 = mtOf 0x000F1234 ∧ grpOf 0x00000000 = grpOf 0x000F1234 ∧ mtOf 0x00000000 = 0x0
        ∧ stOf 0x00000000 = stOf 0x000F1234 ∧ stOf 0x00000000 = 0x0)
      ∧ (stOf 0x00100005 = stOf 0x001F0005 ∧ lo16 0x00100005 = lo16 0x001F0005)
      ∧ (mtOf 0x10F80000 = 0x1 ∧ byte1 0x10F80000 = byte1 0x10F81234 ∧ need (byte1 0x10F80000) = some 0)
      ∧ (mtOf 0x20C00500 = 0x2 ∧ byte1 0x20C00500 = byte1 0x20C00599 ∧ byte2 0x20C00500 = byte2 0x20C00599
        ∧ need (byte1 0x20C00500) = some 1)
      ∧ (mtOf 0x40D00000 = 0x4 ∧ stOf 0x40D00000 = stOf 0x40D01234 ∧ chOf 0x40D00000 = chOf 0x40D01234
        ∧ stOf 0x40D00000 ∈ ([0xD, 0xE] : List U4))
      ∧ (stOf 0x40B00700 ∈ ([0x6, 0xA, 0xB] : List U4) ∧ byte2 0x40B00700 = byte2 0x40B007FF)
      ∧ (stOf 0x40C00000 = 0xC ∧ (byte3 0x40C00000).getLsbD 0 = (byte3 0x40C077FE).getLsbD 0
        ∧ (byte3 0x40C00000).getLsbD 0 = false ∧ byte0 0x05000000 = byte0 0x05FF8080)
      ∧ (⟨1, 0x41, 0, 0⟩ : Pack7).body = (⟨1, 0x41, 0x80, 0xFFFFFFFF⟩ : Pack7).body
      ∧ (⟨3, 0, 0x41000000, 0, 0⟩ : Pack8).body = (⟨3, 0, 0x41FFFFFF, 1, 2⟩ : Pack8).body := by decide

theorem witness_UtilityAndSystemMessagesDecode :
    (mtOf 0x00300000 = 0x0 ∧ 0x3 ≤ (stOf 0x00300000).toNat)
      ∧ mtOf 0x10F48000 = 0x1
      ∧ byte1 0x10F48000 ∉ ([0xF1, 0xF2, 0xF3, 0xF6, 0xF8, 0xFA, 0xFB, 0xFC, 0xFE, 0xFF] : List Byte) := by decide

theorem witness_Midi1VoiceMessagesDecode :
    mtOf 0x20703C64 = 0x2 ∧ (stOf 0x20703C64).toNat < 0x8 ∧ mtOf 0x20F00000 = 0x2 ∧ stOf 0x20F00000 = 0xF := by decide

theorem witness_UnsupportedAndReservedUmpForms :
    (mtOf 0x40203C00 = 0x4 ∧ stOf 0x40203C00 ∈ ([0x2, 0x3, 0x4, 0x5, 0xF] : List U4))
      ∧ (mtOf 0x50912345 = 0x5 ∧ stOf 0x50912345 = 0x9
        ∧ ([0x50912345, 0, 0, 0, 0x50310000, 0, 0, 0] : List Word).length % 4 = 0)
      ∧ Instr.umpMt4ReservedOp7 2 3 ∈ [Instr.umpReservedMT6 2, .umpReservedMT7 2, .umpMt4ReservedOp7 2 3] := by decide

/-- The packets of V-DU's two-packet message and of a three-packet one, at the count bounds 0 and 6. -/
theorem witness_SysEx7MessagesDecode :
    let p : Pack7 := ⟨6, 0x01, 0x02, 0x03040506⟩
    let q : Pack7 := ⟨1, 0x07, 0, 0⟩
    let e : Pack7 := ⟨0, 0, 0, 0⟩
    p.counted ∧ p.body = ([1, 2, 3, 4, 5, 6] : List U7).map U7.byte
      ∧ (∀ x ∈ p :: ([e] ++ [q]), x.counted)
      ∧ (p :: ([e] ++ [q])).flatMap Pack7.body = ([1, 2, 3, 4, 5, 6, 7] : List U7).map U7.byte
      ∧ ([0x31310700, 0] : List Word) ≠ [] := by decide

theorem witness_SysEx8MessagesDecode :
    let p : Pack8 := ⟨14, 0x00, 0x41808182, 0x83848586, 0x8788898A⟩
    let q : Pack8 := ⟨1, 0, 0, 0, 0⟩
    p.counted ∧ q.counted ∧ (∀ x ∈ p :: ([p] ++ [q]), x.counted) ∧ ([0x5132078B, 0, 0, 0] : List Word) ≠ [] := by decide

/-- A start and an end packet that join, the same with the group changed, and for each kind of packet that does not
unpack one at the boundary of its condition, behind a packet that does. -/
theorem witness_PacketSequencesJoinOrFail :
    let p : Pack7 := ⟨6, 0x01, 0x02, 0x03040506⟩
    let q : Pack7 := ⟨1, 0x07, 0, 0⟩
    let r : Pack8 := ⟨3, 0x00, 0x41000000, 0, 0⟩
    let joined (ps : List (U4 × U4 × Pack7)) : Prop :=
      (∀ x ∈ ps, ∀ y ∈ ps, x.1 = y.1) ∧ ∀ j x, ps[j]? = some x → x.2.1.setWidth 32 = statusOf j ps.length
    (∀ x ∈ ([(1, 1, p), (1, 3, q)] : List (U4 × U4 × Pack7)), x.2.1.toNat ≤ 0x3 ∧ x.2.2.counted)
      ∧ ([(1, 1, p), (1, 3, q)] : List (U4 × U4 × Pack7)).flatMap (·.2.2.body)
        = ([1, 2, 3, 4, 5, 6, 7] : List U7).map U7.byte
      ∧ joined [(1, 1, p), (1, 3, q)] ∧ ¬joined [(1, 1, p), (2, 3, q)]
      ∧ (∀ x ∈ ([(0, 0, 7, r)] : List (U4 × U4 × Byte × Pack8)), x.2.1.toNat ≤ 0x3 ∧ x.2.2.2.counted)
      ∧ (∀ y ∈ ([(1, 1, p)] : List (U4 × U4 × Pack7)), y.2.1.toNat ≤ 0x3 ∧ y.2.2.counted ∧ ∀ b ∈ y.2.2.body, b.toNat < 0x80)
      ∧ ((3 : U4).toNat ≤ 0x3 ∧ Pack7.counted ⟨1, 0x80, 0, 0⟩ ∧ ∃ b ∈ Pack7.body ⟨1, 0x80, 0, 0⟩, 0x80 ≤ b.toNat)
      ∧ (0x3 < (4 : U4).toNat ∧ ¬Pack7.counted ⟨7, 0, 0, 0⟩)
      ∧ (∀ y ∈ ([(0, 1, 7, r)] : List (U4 × U4 × Byte × Pack8)), y.2.1.toNat ≤ 0x3 ∧ y.2.2.2.counted)
      ∧ ((4 : U4) ≠ 0x8 ∧ (4 : U4) ≠ 0x9 ∧ 0x3 < (4 : U4).toNat ∧ ¬Pack8.counted ⟨0, 0, 0, 0, 0⟩
        ∧ ¬Pack8.counted ⟨15, 0, 0, 0, 0⟩)
      ∧ (∀ j x, ([(0, 0, 7, r)] : List (U4 × U4 × Byte × Pack8))[j]? = some x → x.2.1.setWidth 32 = statusOf j 1) := by
  refine ⟨by decide, by decide, ⟨by decide, ?_⟩, fun h => absurd h.1 (by decide), by decide, by decide, by decide,
    by decide, by decide, by decide, ?_⟩
  · rintro (_ | _ | j) x h <;> simp at h <;> subst h <;> decide
  · rintro (_ | j) x h <;> simp at h
    subst h
    decide

theorem witness_UmpRoundTrip :
    (Event.noteOn 60 (.m2 0x1234) ⟨5, 0x1234⟩ 9 0).wf State.reset.params.registry = true
      ∧ representableUmp .M2 (.noteOn 60 (.m2 0x1234) ⟨5, 0x1234⟩ 9 0) = true
      ∧ representableUmp .M1 (.pitchBend (.m1 16383) 1 0) = true
      ∧ State.reset.params.registry.ok = true ∧ State.reset.params.noteOnV0AsNoteOff = false := by decide

/-- A witness of each clause, under `REG_STRUCT`. -/
theorem witness_SysExIdOfRawBytes :
    let r := State.reset.params.registry
    (∃ b ∈ ([0x41, 0x80] : List Byte), 0x80 ≤ b.toNat) ∧ ([0x20] : List U7).length < 2
      ∧ r.reg3 0 1 = true ∧ r.reg3 0 0 = false ∧ (0x7D : U7) ≠ 0 ∧ r.reg1 0x7D = true
      ∧ r.reg1 0x7E = false ∧ (0x7E : U7) = 0x7E ∧ r.reg1 0x7F = false ∧ (0x7F : U7) ≠ 0
      ∧ ([0x41] : List Byte).length < 2 ∧ 0x80 ≤ (0xA0 : Byte).toNat ∧ 0x80 ≤ (0x80 : Byte).toNat
      ∧ (0x01 : Byte) ≠ 0x00 ∧ (0x7F : Byte).toNat < 0x80 ∧ r.reg1 0 = false := by decide

/-- An identifier that no registry entry names: the last clause of each width. -/
theorem witness_SysExIdOfRawBytes_unregistered :
    let r := (small Ctx.reset).params.registry
    (0x42 : U7) ≠ 0 ∧ r.reg1 0x42 = false ∧ (0x42 : U7) ≠ 0x7E ∧ (0x42 : U7) ≠ 0x7F := by decide

theorem witness_SysExIdResolvesItsOwnBytes :
    (small Ctx.reset).params.registry.ok = true ∧ (SysExID.mfr3 0x20 0x6B).wf (small Ctx.reset).params.registry = true
      ∧ (SysExID.universal true).wf (small Ctx.reset).params.registry = true := by decide

theorem witness_ChunkBoundariesDoNotMatter : 1 < (two collecting inBody).nCtx := by decide

/-- The event premise: a FEED whose item is an event. -/
theorem witness_FeedEmitsOnlyMidi1Events :
    0 < State.reset.nCtx ∧ exec (.feed 0 9 [0xF8]) State.reset
      = .next (State.reset.emitted 0 Ctx.reset 9 [.ev (.timingClock 0)]) := ⟨by decide, rfl⟩

/-- Contexts for the parser's statements: nothing partial, a pending message, an open SysEx. -/
theorem witness_RealTimeAndReservedBytesEmitTheirItem :
    0 < State.reset.nCtx ∧ (withCtx collecting).ctxs[0]? = some collecting ∧ collecting.Inv none
      ∧ (withCtx inBody).ctxs[0]? = some inBody ∧ inBody.Inv none :=
  ⟨by decide, rfl, inv_collecting _, rfl, inv_inBody.2⟩

theorem witness_ChannelVoiceMessagesParse :
    (withCtx collecting).ctxs[0]? = some collecting ∧ collecting.Inv (withCtx collecting).params.sysexMax
      ∧ (0 : U4) = (withCtx collecting).params.parserGroup 0 ∧ isChanStatus 0x80 = true ∧ isChanStatus 0xEF = true :=
  ⟨rfl, inv_collecting _, rfl, by decide, by decide⟩

theorem witness_SystemCommonMessagesParse :
    (small inBody).ctxs[0]? = some inBody ∧ inBody.Inv (small inBody).params.sysexMax
      ∧ (5 : U4) = (small inBody).params.parserGroup 0 ∧ (0xF3 : Byte) ∈ ([0xF1, 0xF2, 0xF3] : List Byte) :=
  ⟨rfl, inv_inBody.1, rfl, by decide⟩

theorem witness_SysExStartOpensAndAccumulates :
    (small Ctx.reset).ctxs[0]? = some Ctx.reset ∧ Ctx.reset.Inv (small Ctx.reset).params.sysexMax
      ∧ keptBody (small Ctx.reset).params.sysexMax [1, 2, 3] = [1, 2]
      ∧ bodyDropped (small Ctx.reset).params.sysexMax [1, 2, 3] = true := ⟨rfl, inv_reset _, rfl, rfl⟩

/-- One context for each of the four clauses. -/
theorem witness_EndOfExclusiveClosesOrIsStray :
    (overflowing.sx = true ∧ overflowing.ovf = true ∧ overflowing.Inv (some 2))
      ∧ (inBody.sx = true ∧ inBody.ovf = false ∧ inBody.Inv none
        ∧ sysEx7FromBody .struct inBody.acc 0 = .ok (.sysEx7 (.mfr1 1) [2] 0))
      ∧ ((⟨none, none, [], true, [], false⟩ : Ctx).sx = true
        ∧ sysEx7FromBody .struct [] 0 = .error (.malformed .emptyBody))
      ∧ collecting.sx = false ∧ collecting.Inv none :=
  ⟨⟨rfl, rfl, inv_overflowing⟩, ⟨rfl, rfl, inv_inBody.2, rfl⟩, ⟨rfl, rfl⟩, rfl, inv_collecting _⟩

/-- An accumulator with room, a full one, no status at all, and a message complete or not with this byte. -/
theorem witness_DataByteAccumulatesCollectsOrIsOrphan :
    (inBody.sx = true ∧ ∀ m, (some 3) = some m → inBody.acc.length < m)
      ∧ (overflowing.sx = true ∧ (small overflowing).params.sysexMax = some overflowing.acc.length)
      ∧ (Ctx.reset.sx = false ∧ Ctx.reset.pend = none ∧ Ctx.reset.rs = none)
      ∧ (collecting.sx = false ∧ collecting.pend = some 0x90 ∧ [0x3C, 0x64] = collecting.pd ++ [0x64]
        ∧ isComplete 0x90 [0x3C, 0x64])
      ∧ ((quiet (some 0x90)).pend = none ∧ (quiet (some 0x90)).rs = some 0x90 ∧ ¬isComplete 0x90 [0x3C]) := by
  refine ⟨⟨rfl, ?_⟩, ⟨rfl, rfl⟩, ⟨rfl, rfl, rfl⟩, ⟨rfl, rfl, rfl, by decide⟩, rfl, rfl, by decide⟩
  rintro m ⟨⟩
  decide

/-- A message of each kind, the first and the last channel voice status among them, and a SysEx that the accumulator just
holds. -/
theorem witness_MessageWithItsStatusIsDecodedExactly :
    isChanStatus 0x80 = true ∧ isComplete 0x80 [0x3C, 0x40] ∧ isChanStatus 0xEF = true ∧ isComplete 0xEF [0, 64]
      ∧ (0xF6 : Byte) ∈ ([0xF1, 0xF2, 0xF3, 0xF6] : List Byte) ∧ isComplete 0xF6 []
      ∧ withinMax (small collecting).params.sysexMax ([0x41, 0x01] : List U7).length
      ∧ exec (.decM1 (0xF0 :: (([0x41, 0x01] : List U7).map U7.byte ++ [0xF7])) 5) (small collecting)
        = .next ((small collecting).ended (.event (.sysEx7 (.mfr1 0x41) [1] 5))) := by
  refine ⟨by decide, by decide, by decide, by decide, by decide, by decide, ?_, rfl⟩
  rintro m ⟨⟩
  decide

theorem witness_ParserAgreesWithEncoder :
    let S := quiet (some 0x90)
    (small S).ctxs[0]? = some S ∧ S.Inv (small S).params.sysexMax ∧ S.sx = false ∧ S.pend = none
      ∧ (small S).params.registry.ok = true ∧ (small S).params.noteOnV0AsNoteOff = false
      ∧ (Event.sysEx7 (.mfr1 0x41) [1] 5).wf (small S).params.registry = true
      ∧ representableM1 (.sysEx7 (.mfr1 0x41) [1] 5) = true
      ∧ groupOf (.sysEx7 (.mfr1 0x41) [1] 5) = (small S).params.parserGroup 0
      ∧ withinMax (small S).params.sysexMax (body7 (.mfr1 0x41) [1]).length := by
  refine ⟨rfl, inv_quiet _, rfl, rfl, rfl, rfl, rfl, rfl, rfl, ?_⟩
  rintro m ⟨⟩
  decide

theorem witness_ClassifyEachVariant :
    (SysExID.mfr3 0 1).wf State.reset.params.registry = true ∧ (∀ u, SysExID.mfr3 0 1 ≠ .universal u)
      ∧ (Event.sysEx8 (.mfr1 0x7D) [] 0 0).wf State.reset.params.registry = true
      ∧ EvType.sysEx8 ∈ typesOf .sysEx ∧ EvType.noOp ∈ typesOf .utility := by decide

theorem witness_FilterKeepsWhatItsOperationKeeps :
    ∀ e ∈ ([.noOp 0, .sysEx7 (.mfr1 0x41) [] 0] : List Event), e.wf State.reset.params.registry = true := by decide

theorem witness_FilterLaws :
    ∀ e ∈ ([.jrClock 5 0, .sysEx8 (.universal true) [0xFF] 0 0] : List Event), e.wf State.reset.params.registry = true := by
  decide

end Sys2Proof.Tests
end

section
/-! PROOFS. Parser contexts are independent of each other (R47). An operation on context `c` modifies entry `c` of the
context list by a function of that entry, and its outcome is a function of that entry too; both functions depend on
the instruction and the parameters alone. -/

namespace Sys2Proof.Machine

/-! ### What an operation on a context reads and writes -/

/-- The context list after an operation on context `c`: entry `c` is modified, if there is one. -/
@[simp] theorem State.onCtx_ctxs (s : State) (c : Nat) (f : Ctx → Result × Ctx) :
    (s.onCtx c f).ctxs = s.ctxs.modify c fun S => (f S).2 := by
  rw [List.modify_eq_set_getElem?]
  cases hS : s.ctxs[c]? with
  | none => rw [State.onCtx_none hS]; rfl
  | some S => rw [State.onCtx_some hS]; rfl

/-- The outcome of an operation on context `c`: refused, or a function of the record of `c` (R406). -/
@[simp] theorem State.onCtx_outcomes (s : State) (c : Nat) (f : Ctx → Result × Ctx) :
    (s.onCtx c f).outcomes = s.outcomes ++ [s.ctxs[c]?.elim .refused fun S => (f S).1] := by
  cases hS : s.ctxs[c]? with
  | none => rw [State.onCtx_none hS]; rfl
  | some S => rw [State.onCtx_some hS]; rfl

/-- What FEED makes of the record of its context: the outcome and the new record (R81, R321). -/
def fedCtx (p : Params) (c : Nat) (t : U64) (bs : List Byte) (S : Ctx) : Result × Ctx :=
  (.items ((feedBytes p (p.parserGroup c) bs S).1.map fun it => (t, it)), (feedBytes p (p.parserGroup c) bs S).2)

theorem feed_eq_onCtx (c : Nat) (t : U64) (bs : List Byte) (s : State) :
    feed c t bs s = s.onCtx c (fedCtx s.params c t bs) := rfl

/-- An instruction that names context `c` is one operation on `c`, the same in all states of the same parameters. -/
theorem exec_eq_onCtx (p : Params) {i : Instr} {c : Nat} (h : contextOf i = some c) :
    ∃ f : Ctx → Result × Ctx, ∀ s : State, s.params = p → exec i s = .next (s.onCtx c f) := by
  rcases exec_onCtx p h with rfl | ⟨t, bs, hfeed⟩
  · exact ⟨_, fun s _ => exec_reset c s⟩
  · exact ⟨fedCtx p c t bs, fun s hs => by rw [hfeed s hs, feed_eq_onCtx, hs]⟩

/-! ### Independence -/

/-- An instruction leaves the record of every context that it does not name as it was. -/
theorem exec_getElem?_ctxs_of_ne {i : Instr} {s t : State} {k : Nat} (h : exec i s = .next t)
    (hk : contextOf i ≠ some k) : t.ctxs[k]? = s.ctxs[k]? := by
  cases hc : contextOf i with
  | none =>
    obtain ⟨r, hr⟩ := exec_pure s.params hc
    cases (hr s rfl).symm.trans h
    rw [State.ended_ctxs]
  | some c =>
    obtain ⟨f, hf⟩ := exec_eq_onCtx s.params hc
    cases (hf s rfl).symm.trans h
    have hck : c ≠ k := fun e => hk (hc.trans (congrArg some e))
    rw [State.onCtx_ctxs, List.getElem?_modify_ne _ _ hck]

/-- In two states of the same parameters and the same record of context `c`, an instruction that names `c` leaves the
same record of `c` and gives the same outcome. -/
theorem exec_agree_of_same_ctx {i : Instr} {c : Nat} {s u s' u' : State} (hc : contextOf i = some c)
    (hp : s.params = u.params) (hS : s.ctxs[c]? = u.ctxs[c]?) (hs : exec i s = .next s') (hu : exec i u = .next u') :
    s'.ctxs[c]? = u'.ctxs[c]? ∧ ∃ r, s'.outcomes = s.outcomes ++ [r] ∧ u'.outcomes = u.outcomes ++ [r] := by
  obtain ⟨f, hf⟩ := exec_eq_onCtx u.params hc
  cases (hf s hp).symm.trans hs
  cases (hf u rfl).symm.trans hu
  constructor
  · rw [State.onCtx_ctxs, State.onCtx_ctxs, List.getElem?_modify_eq, List.getElem?_modify_eq, hS]
  · exact ⟨_, State.onCtx_outcomes s c f, by rw [State.onCtx_outcomes, hS]⟩

/-- Settles O16: the frame of the contexts an instruction does not name, and the agreement on the one it names. -/
theorem contextsAreIndependent : Obligations.ContextsAreIndependent :=
  ⟨fun _ _ _ _ => exec_getElem?_ctxs_of_ne, fun _ _ _ _ _ _ => exec_agree_of_same_ctx⟩

end Sys2Proof.Machine
end

section
/-! PROOFS. Every event has one category and one type (R38, R370, R371): CLASSIFY of a value of type `Event` answers
`cat` and `type`, the type stands among the types of the category, and a type belongs to one category only. -/

namespace Sys2Proof.Machine

/-- CLASSIFY of an event in the domain. -/
theorem exec_classify_of_wf {e : Event} {s : State} (h : e.wf s.params.registry = true) :
    exec (.classify e) s = .next (s.ended (.classified (catOf e) (typeOf e))) := by
  rw [exec_classify, admitsEvent_eq_wf, if_pos h]

/-- The types of the two SysEx variants with an identifier that is not universal (R38). -/
theorem typeOf_of_not_universal {id : SysExID} (h : ∀ u, id ≠ .universal u) (d7 : List U7) (d8 : List Byte) (sid : Byte)
    (g : U4) : typeOf (.sysEx7 id d7 g) = .sysEx7 ∧ typeOf (.sysEx8 id d8 sid g) = .sysEx8 := by
  cases id with
  | mfr1 b => exact ⟨rfl, rfl⟩
  | mfr3 b1 b2 => exact ⟨rfl, rfl⟩
  | universal u => exact absurd rfl (h u)

/-- The type of an event is one of its category's (R371). -/
theorem typeOf_mem_typesOf_catOf (e : Event) : typeOf e ∈ typesOf (catOf e) := by
  cases e with
  | sysEx7 id d g => cases id <;> simp [typeOf, catOf, typesOf]
  | sysEx8 id d sid g => cases id <;> simp [typeOf, catOf, typesOf]
  | _ => simp [typeOf, catOf, typesOf]

/-- The one category a type belongs to (R371). -/
def categoryOfType : EvType → Category
  | .noteOn | .noteOff | .notePressure | .cc | .programChange | .pressure | .pitchBend | .notePitchBend | .noteCC =>
    .chanVoice
  | .timecodeQuarterFrame | .songPositionPointer | .songSelect | .tuneRequest => .systemCommon
  | .timingClock | .start | .stop | .continue_ | .activeSensing | .systemReset => .systemRealTime
  | .sysEx7 | .universalSysEx7 | .sysEx8 | .universalSysEx8 => .sysEx
  | .noOp | .jrClock | .jrTimestamp => .utility

theorem categoryOfType_of_mem_typesOf {C : Category} : ∀ {T : EvType}, T ∈ typesOf C → categoryOfType T = C := by
  cases C <;> decide

/-- Settles O57: CLASSIFY answers `cat` and `type` of every event in the domain, variant by variant; and a type
determines the category it is listed in. -/
theorem classifyEachVariant : Obligations.ClassifyEachVariant := by
  refine ⟨?variants, fun e s he => ⟨catOf e, typeOf e, exec_classify_of_wf he, typeOf_mem_typesOf_catOf e⟩,
    fun C D T hC hD => (categoryOfType_of_mem_typesOf hC).symm.trans (categoryOfType_of_mem_typesOf hD)⟩
  intro s n v a x k b w p q t rt id d7 d8 sid ch g
  refine ⟨?_, ?_, ?_, ?_, ?_, ?_, ?_, ?_, ?_, ?_, ?_, ?_, ?_, ?_, ?_, ?_, ?_, ?_, ?_, ?_, ?_, ?nonUniversal, ?_, ?_, ?_⟩
  case nonUniversal =>
    intro hid hu
    obtain ⟨h7, h8⟩ := typeOf_of_not_universal hu d7 d8 sid g
    exact ⟨h7 ▸ exec_classify_of_wf (e := .sysEx7 id d7 g) hid, h8 ▸ exec_classify_of_wf (e := .sysEx8 id d8 sid g) hid⟩
  all_goals exact exec_classify_of_wf rfl

end Sys2Proof.Machine
end

section
/-! PROOFS. The value operations (spec 40_values.md). For each of MAKE_UINT, SCALE and the bipolar and unipolar maps:
how it ends on operands in its domain, then the arithmetic of its result. SCALE's laws (R144) rest on one fact, that
downscaling is monotone and undoes upscaling; the round trips of the maps rest on one too, that what is rounded is a
natural number already. -/

namespace Sys2Proof.Machine

/-! ### How the operations end on operands of their domain -/

theorem exec_makeUint_of_mem {N : Nat} (hN : N ∈ uintWidths) (v : Nat) (s : State) :
    exec (.makeUint N v) s = .next (s.ended (resultOr (.uint N) (makeUint N v))) := by
  rw [exec_makeUint, if_pos (mem_uintWidths.mp hN)]

theorem exec_scale_of_mem {v N M : Nat} (hN : N ∈ scaleWidths) (hM : M ∈ scaleWidths) (hv : v ≤ 2 ^ N - 1)
    (s : State) : exec (.scale v N M) s = .next (s.ended (.uint M (scaleNat v N M))) := by
  rw [exec_scale, mem_scaleWidths.mp hN, mem_scaleWidths.mp hM, isUint_iff.mpr hv]
  rfl

theorem exec_toBipolar_of_mem {v N : Nat} (hN : N ∈ scaleWidths) (hv : v ≤ 2 ^ N - 1) (s : State) :
    exec (.toBipolar v N) s = .next (s.ended (.rational (toBipolar v N))) := by
  rw [exec_toBipolar, mem_scaleWidths.mp hN, isUint_iff.mpr hv]
  rfl

theorem exec_fromBipolar_of_mem {N : Nat} (hN : N ∈ scaleWidths) (x : Rat) (s : State) :
    exec (.fromBipolar x N) s = .next (s.ended (resultOr (.uint N) (fromBipolar x N))) := by
  rw [exec_fromBipolar, if_pos (mem_scaleWidths.mp hN)]

theorem exec_toUnipolar_of_mem {v N : Nat} (hN : N ∈ scaleWidths) (hv : v ≤ 2 ^ N - 1) (s : State) :
    exec (.toUnipolar v N) s = .next (s.ended (.rational (toUnipolar v N))) := by
  rw [exec_toUnipolar, mem_scaleWidths.mp hN, isUint_iff.mpr hv]
  rfl

theorem exec_fromUnipolar_of_mem {N : Nat} (hN : N ∈ scaleWidths) (x : Rat) (s : State) :
    exec (.fromUnipolar x N) s = .next (s.ended (resultOr (.uint N) (fromUnipolar x N))) := by
  rw [exec_fromUnipolar, if_pos (mem_scaleWidths.mp hN)]

/-- Two ways for an operation to end in one state are one outcome. -/
theorem next_ended_inj {s : State} {r q : Result} :
    (Host.Outcome.next (s.ended r) : Step) = .next (s.ended q) ↔ r = q := by
  rw [Host.Outcome.next.injEq, State.ended_inj]

/-! ### MAKE_UINT (R140) -/

theorem makeUint_of_le {N v : Nat} (h : v ≤ maxOf N) : makeUint N v = .ok v := if_neg h.not_gt

theorem makeUint_of_gt {N v : Nat} (h : maxOf N < v) : makeUint N v = .error (.rangeError N v) := if_pos h

/-- Settles O19, by the two branches of R140's construction. -/
theorem makeUintChecksItsRange : Obligations.MakeUintChecksItsRange := by
  intro N v s hN
  rw [exec_makeUint_of_mem hN]
  constructor
  · intro h
    rw [makeUint_of_le h, resultOr_ok]
  · intro h
    rw [makeUint_of_gt h, resultOr_error]

/-! ### SCALE (R141, R144) -/

theorem scaleWidths_pos {N : Nat} (h : N ∈ scaleWidths) : 0 < N := by
  rcases scaleWidths_cases h with rfl | rfl | rfl | rfl <;> decide

theorem scaleNat_self (v N : Nat) : scaleNat v N N = v := if_pos rfl

theorem scaleNat_mid {N M : Nat} (h : N ≠ M) : scaleNat (2 ^ (N - 1)) N M = 2 ^ (M - 1) := by
  rw [scaleNat, if_neg h, if_pos rfl]

/-- The general formula of R141, off the midpoint. -/
theorem scaleNat_of_ne {v N M : Nat} (h : N ≠ M) (hv : v ≠ 2 ^ (N - 1)) :
    scaleNat v N M = (2 * v * maxOf M + maxOf N) / (2 * maxOf N) := by
  rw [scaleNat, if_neg h, if_neg hv]
  rfl

theorem maxOf_pos {N : Nat} (hN : 0 < N) : 0 < maxOf N := Nat.sub_pos_of_lt (Nat.one_lt_two_pow hN.ne')

theorem maxOf_lt_maxOf {N M : Nat} (h : N < M) : maxOf N < maxOf M :=
  Nat.sub_lt_sub_right Nat.one_le_two_pow (Nat.pow_lt_pow_right one_lt_two h)

/-- Off the midpoint SCALE is the exact quotient, rounded (R141). -/
theorem scaleNat_eq_floor {v N M : Nat} (hN : 0 < N) (h : N ≠ M) (hv : v ≠ 2 ^ (N - 1)) :
    (scaleNat v N M : Int) = ⌊(v : Rat) * ((2 : Rat) ^ M - 1) / ((2 : Rat) ^ N - 1) + 1 / 2⌋ := by
  rw [scaleNat_of_ne h hv, round_div _ _ _ (maxOf_pos hN), maxOf_cast, maxOf_cast]

/-- Settles O20: the three cases of `scaleNat`, and the values of R145 by evaluation. -/
theorem scaleIsTheRoundedQuotient : Obligations.ScaleIsTheRoundedQuotient := by
  refine ⟨?quotient, by decide⟩
  intro v N M s hN hM hv
  have posN := scaleWidths_pos hN
  refine ⟨_, exec_scale_of_mem hN hM hv s, rfl, scaleNat_le posN (scaleWidths_pos hM) hv, ?_, ?_,
    scaleNat_eq_floor posN⟩
  · rintro rfl
    exact scaleNat_self v N
  · rintro h rfl
    exact scaleNat_mid h

/-- Upscaling then downscaling is the identity (R144). -/
theorem scaleNat_down_up {N M : Nat} (hN : N ∈ scaleWidths) (hM : M ∈ scaleWidths) (h : N < M) (v : Nat) :
    scaleNat (scaleNat v N M) M N = v := by
  by_cases hv : v = 2 ^ (N - 1)
  · rw [hv, scaleNat_mid h.ne, scaleNat_mid h.ne']
  · rw [scaleNat_down hN hM h, scaleNat_of_ne h.ne hv]
    exact round_trip (maxOf_pos (scaleWidths_pos hN)) (maxOf_lt_maxOf h)

/-- Downscaling is monotone (R144). -/
theorem scaleNat_down_mono {N M u w : Nat} (hN : N ∈ scaleWidths) (hM : M ∈ scaleWidths) (h : N < M) (huw : u ≤ w) :
    scaleNat u M N ≤ scaleNat w M N := by
  rw [scaleNat_down hN hM h, scaleNat_down hN hM h]
  gcongr

/-- Upscaling is strictly increasing (R144), for a monotone map undoes it. -/
theorem scaleNat_up_strictMono {N M v w : Nat} (hN : N ∈ scaleWidths) (hM : M ∈ scaleWidths) (h : N < M)
    (hvw : v < w) : scaleNat v N M < scaleNat w N M := by
  by_contra hle
  have hback := scaleNat_down_mono hN hM h (not_lt.mp hle)
  rw [scaleNat_down_up hN hM h, scaleNat_down_up hN hM h] at hback
  exact hvw.not_ge hback

/-- Downscaling loses information (R144): 0 and 1 have one image. -/
theorem scaleNat_down_zero_eq_one {N M : Nat} (hN : N ∈ scaleWidths) (hM : M ∈ scaleWidths) (h : N < M) :
    scaleNat 0 M N = scaleNat 1 M N := by
  have hpow : 2 * 2 ^ N ≤ 2 ^ M := by
    rw [← pow_succ']
    exact Nat.pow_le_pow_right two_pos h
  have hone := Nat.two_pow_pos N
  rw [scaleNat_down hN hM h, scaleNat_down hN hM h, Nat.div_eq_of_lt (by omega), Nat.div_eq_of_lt (by omega)]

/-- Settles O21 by R144's four laws; 0 and 1 are the two values with one image. -/
theorem scaleUpThenDownIsTheIdentity : Obligations.ScaleUpThenDownIsTheIdentity := by
  intro N M hN hM h
  exact ⟨fun v _ => scaleNat_down_up hN hM h v, fun _ _ hvw _ => scaleNat_up_strictMono hN hM h hvw,
    fun _ _ huw _ => scaleNat_down_mono hN hM h huw,
    0, 1, zero_lt_one, maxOf_pos (scaleWidths_pos hM), scaleNat_down_zero_eq_one hN hM h⟩

/-! ### The midpoint and the maximum, as rationals (R150) -/

theorem midOf_cast (N : Nat) : (midOf N : Rat) = 2 ^ (N - 1) := Nat.cast_pow 2 (N - 1)

theorem midOf_cast_pos (N : Nat) : 0 < (midOf N : Rat) := Nat.cast_pos.mpr (Nat.two_pow_pos _)

/-- The values run from 0 to one less than twice the midpoint. -/
theorem maxOf_cast_eq_two_mul_midOf {N : Nat} (hN : N ∈ scaleWidths) : (maxOf N : Rat) = 2 * midOf N - 1 := by
  rw [maxOf_cast, midOf_cast, mul_pow_sub_one (scaleWidths_pos hN).ne']

/-- The upper segment is not empty: no width of SCALE is 1. -/
theorem midOf_cast_lt_maxOf {N : Nat} (hN : N ∈ scaleWidths) : (midOf N : Rat) < maxOf N := by
  have h : midOf N < maxOf N := by
    rcases scaleWidths_cases hN with rfl | rfl | rfl | rfl <;> decide
  exact_mod_cast h

/-! ### TO_BIPOLAR (R150) -/

theorem toBipolar_of_lt {v N : Nat} (h : v < midOf N) : toBipolar v N = ((v : Rat) - midOf N) / midOf N := if_pos h

theorem toBipolar_of_ge {v N : Nat} (h : midOf N ≤ v) :
    toBipolar v N = ((v : Rat) - midOf N) / ((maxOf N : Rat) - midOf N) := if_neg h.not_gt

/-- The lower segment maps into `[-1, 0)`. -/
theorem toBipolar_mem_lower {v N : Nat} (h : v < midOf N) : -1 ≤ toBipolar v N ∧ toBipolar v N < 0 := by
  have hmid := midOf_cast_pos N
  have hv : (v : Rat) < midOf N := Nat.cast_lt.mpr h
  rw [toBipolar_of_lt h]
  constructor
  · rw [le_div_iff₀ hmid]
    linarith [Nat.cast_nonneg (α := Rat) v]
  · exact div_neg_of_neg_of_pos (sub_neg.mpr hv) hmid

/-- The upper segment maps into `[0, 1]`. -/
theorem toBipolar_mem_upper {v N : Nat} (hN : N ∈ scaleWidths) (h : midOf N ≤ v) (hv : v ≤ maxOf N) :
    0 ≤ toBipolar v N ∧ toBipolar v N ≤ 1 := by
  have hlen := sub_pos.mpr (midOf_cast_lt_maxOf hN)
  rw [toBipolar_of_ge h]
  constructor
  · exact div_nonneg (sub_nonneg.mpr (Nat.cast_le.mpr h)) hlen.le
  · exact (div_le_one hlen).mpr (sub_le_sub_right (Nat.cast_le.mpr hv) _)

theorem toBipolar_zero (N : Nat) : toBipolar 0 N = -1 := by
  rw [toBipolar_of_lt (Nat.two_pow_pos _), Nat.cast_zero, zero_sub, neg_div, div_self (midOf_cast_pos N).ne']

theorem toBipolar_mid (N : Nat) : toBipolar (midOf N) N = 0 := by
  rw [toBipolar_of_ge le_rfl, sub_self, zero_div]

theorem toBipolar_max {N : Nat} (hN : N ∈ scaleWidths) : toBipolar (maxOf N) N = 1 := by
  have hlt := midOf_cast_lt_maxOf hN
  rw [toBipolar_of_ge (Nat.cast_lt.mp hlt).le, div_self (sub_pos.mpr hlt).ne']

/-- Settles O22: each segment with its range, and R150's three corner cases. -/
theorem toBipolarIsTwoSegments : Obligations.ToBipolarIsTwoSegments := by
  intro v N s hN hv
  refine ⟨_, exec_toBipolar_of_mem hN hv s, ?lower, ?upper, ?_, ?_, ?_⟩
  case lower =>
    intro h
    refine ⟨?_, toBipolar_mem_lower h⟩
    rw [toBipolar_of_lt h, midOf_cast]
  case upper =>
    intro h
    refine ⟨?_, toBipolar_mem_upper hN h hv⟩
    rw [toBipolar_of_ge h, midOf_cast, maxOf_cast]
  · rintro rfl
    exact toBipolar_zero N
  · rintro rfl
    exact toBipolar_mid N
  · rintro rfl
    exact toBipolar_max hN

/-! ### FROM_BIPOLAR (R151) -/

theorem fromBipolar_of_outside {x : Rat} (N : Nat) (h : x < -1 ∨ 1 < x) :
    fromBipolar x N = .error (.rangeError N x) := if_pos h

theorem fromBipolar_of_neg {x : Rat} (N : Nat) (hlo : -1 ≤ x) (hx : x < 0) :
    fromBipolar x N = .ok (roundQ ((midOf N : Rat) + x * midOf N)).toNat := by
  rw [fromBipolar, if_neg (not_or.mpr ⟨hlo.not_gt, (hx.trans one_pos).not_gt⟩), if_pos hx]

theorem fromBipolar_of_nonneg {x : Rat} (N : Nat) (hx : 0 ≤ x) (hhi : x ≤ 1) :
    fromBipolar x N = .ok (roundQ ((midOf N : Rat) + x * ((maxOf N : Rat) - midOf N))).toNat := by
  rw [fromBipolar, if_neg (not_or.mpr ⟨(neg_one_lt_zero.trans_le hx).not_gt, hhi.not_gt⟩), if_neg hx.not_gt]

/-- What R151 rounds on the lower segment lies in `[0, max]`. -/
theorem lower_point_mem {x : Rat} {N : Nat} (hN : N ∈ scaleWidths) (hlo : -1 ≤ x) (hx : x < 0) :
    0 ≤ (midOf N : Rat) + x * midOf N ∧ (midOf N : Rat) + x * midOf N ≤ maxOf N := by
  have hmid := midOf_cast_pos N
  constructor
  · linarith [mul_le_mul_of_nonneg_right hlo hmid.le]
  · linarith [mul_neg_of_neg_of_pos hx hmid, midOf_cast_lt_maxOf hN]

/-- What R151 rounds on the upper segment lies in `[0, max]`. -/
theorem upper_point_mem {x : Rat} {N : Nat} (hN : N ∈ scaleWidths) (hx : 0 ≤ x) (hhi : x ≤ 1) :
    0 ≤ (midOf N : Rat) + x * ((maxOf N : Rat) - midOf N)
      ∧ (midOf N : Rat) + x * ((maxOf N : Rat) - midOf N) ≤ maxOf N := by
  have hlen := sub_pos.mpr (midOf_cast_lt_maxOf hN)
  constructor
  · exact add_nonneg (midOf_cast_pos N).le (mul_nonneg hx hlen.le)
  · linarith [mul_le_of_le_one_left hlen.le hhi]

/-- Settles O23: outside, and on each segment the rounded point, which lies in `[0, max]`. -/
theorem fromBipolarRoundsOrRaises : Obligations.FromBipolarRoundsOrRaises := by
  intro x N s hN
  rw [exec_fromBipolar_of_mem hN]
  refine ⟨?outside, ?inside⟩
  case outside =>
    intro h
    rw [fromBipolar_of_outside N h, resultOr_error]
  case inside =>
    intro hlo hhi
    rcases lt_or_ge x 0 with hx | hx
    · obtain ⟨hnonneg, hle⟩ := lower_point_mem hN hlo hx
      obtain ⟨hfloor, hmax⟩ := roundQ_range hnonneg hle
      rw [fromBipolar_of_neg N hlo hx, resultOr_ok]
      refine ⟨_, rfl, hmax, fun _ => ?_, fun h => absurd hx h.not_gt⟩
      rw [hfloor, midOf_cast]
    · obtain ⟨hnonneg, hle⟩ := upper_point_mem hN hx hhi
      obtain ⟨hfloor, hmax⟩ := roundQ_range hnonneg hle
      rw [fromBipolar_of_nonneg N hx hhi, resultOr_ok]
      refine ⟨_, rfl, hmax, fun h => absurd h hx.not_gt, fun _ => ?_⟩
      rw [hfloor, midOf_cast, maxOf_cast]

/-! ### The bipolar round trip (R152) -/

/-- FROM_BIPOLAR gives back every value TO_BIPOLAR maps: the point it rounds is the value. -/
theorem fromBipolar_toBipolar {v N : Nat} (hN : N ∈ scaleWidths) (hv : v ≤ maxOf N) :
    fromBipolar (toBipolar v N) N = .ok v := by
  rcases lt_or_ge v (midOf N) with h | h
  · obtain ⟨hlo, hneg⟩ := toBipolar_mem_lower h
    rw [fromBipolar_of_neg N hlo hneg, toBipolar_of_lt h, div_mul_cancel₀ _ (midOf_cast_pos N).ne',
      add_sub_cancel, roundQ_natCast]
  · obtain ⟨hnonneg, hhi⟩ := toBipolar_mem_upper hN h hv
    have hlen := sub_pos.mpr (midOf_cast_lt_maxOf hN)
    rw [fromBipolar_of_nonneg N hnonneg hhi, toBipolar_of_ge h, div_mul_cancel₀ _ hlen.ne', add_sub_cancel,
      roundQ_natCast]

/-- TO_BIPOLAR ends with a rational only on a value of `U_N` (R406). -/
theorem le_of_exec_toBipolar {v N : Nat} {x : Rat} {s : State}
    (h : exec (.toBipolar v N) s = .next (s.ended (.rational x))) : v ≤ 2 ^ N - 1 := by
  rw [exec_toBipolar, next_ended_inj] at h
  split at h
  case isTrue hdom => exact isUint_iff.mp (Bool.and_eq_true_iff.mp hdom).2
  case isFalse => cases h

/-- Settles O24: the round trip; and a grid point `x`, the image of `v`, is sent back to `v`, so `v` is what
FROM_BIPOLAR gave. -/
theorem bipolarRoundTrip : Obligations.BipolarRoundTrip := by
  constructor
  · intro v N s hN hv
    refine ⟨_, exec_toBipolar_of_mem hN hv s, ?_⟩
    rw [exec_fromBipolar_of_mem hN, fromBipolar_toBipolar hN hv, resultOr_ok]
  · intro x w N s hN hw
    constructor
    · intro hx
      exact ⟨w, le_of_exec_toBipolar hx, hx⟩
    · rintro ⟨v, hv, hx⟩
      have hgrid : toBipolar v N = x := by
        rw [exec_toBipolar_of_mem hN hv, next_ended_inj] at hx
        exact Result.rational.inj hx
      have hvw : v = w := by
        rw [exec_fromBipolar_of_mem hN, ← hgrid, fromBipolar_toBipolar hN hv, resultOr_ok, next_ended_inj] at hw
        exact (Result.uint.inj hw).2
      exact hvw ▸ hx

/-! ### The unipolar maps (R153, R154) -/

theorem toUnipolar_eq (v N : Nat) : toUnipolar v N = (v : Rat) / ((2 : Rat) ^ N - 1) := by
  rw [toUnipolar, maxOf_cast]

theorem fromUnipolar_of_outside {x : Rat} (N : Nat) (h : x < 0 ∨ 1 < x) :
    fromUnipolar x N = .error (.rangeError N x) := if_pos h

theorem fromUnipolar_of_mem {x : Rat} (N : Nat) (hlo : 0 ≤ x) (hhi : x ≤ 1) :
    fromUnipolar x N = .ok (roundQ (x * maxOf N)).toNat := if_neg (not_or.mpr ⟨hlo.not_gt, hhi.not_gt⟩)

/-- Inside `[0, 1]` FROM_UNIPOLAR gives the rounded product, a value of `U_N`. -/
theorem fromUnipolar_eq_floor {x : Rat} (N : Nat) (hlo : 0 ≤ x) (hhi : x ≤ 1) :
    ∃ v : Nat, fromUnipolar x N = .ok v ∧ v ≤ maxOf N ∧ (v : Int) = ⌊x * ((2 : Rat) ^ N - 1) + 1 / 2⌋ := by
  have hmax : 0 ≤ (maxOf N : Rat) := Nat.cast_nonneg _
  obtain ⟨hfloor, hle⟩ := roundQ_range (mul_nonneg hlo hmax) (mul_le_of_le_one_left hmax hhi)
  exact ⟨_, fromUnipolar_of_mem N hlo hhi, hle, by rw [hfloor, maxOf_cast]⟩

/-- FROM_UNIPOLAR gives back every value TO_UNIPOLAR maps. -/
theorem fromUnipolar_toUnipolar {v N : Nat} (hN : 0 < N) (hv : v ≤ maxOf N) :
    fromUnipolar (toUnipolar v N) N = .ok v := by
  have hmax : 0 < (maxOf N : Rat) := Nat.cast_pos.mpr (maxOf_pos hN)
  have hlo : 0 ≤ toUnipolar v N := div_nonneg (Nat.cast_nonneg v) hmax.le
  have hhi : toUnipolar v N ≤ 1 := (div_le_one hmax).mpr (Nat.cast_le.mpr hv)
  rw [fromUnipolar_of_mem N hlo hhi, toUnipolar, div_mul_cancel₀ _ hmax.ne', roundQ_natCast]

/-- R154's corner case: at 1/2 the product is half an odd number, a tie, and the midpoint is above it. -/
theorem fromUnipolar_half {N : Nat} (hN : N ∈ scaleWidths) : fromUnipolar (1 / 2) N = .ok (midOf N) := by
  obtain ⟨v, hv, -, hfloor⟩ := fromUnipolar_eq_floor (x := 1 / 2) N one_half_pos.le one_half_lt_one.le
  have htie : 1 / 2 * ((2 : Rat) ^ N - 1) + 1 / 2 = midOf N := by
    rw [← maxOf_cast, maxOf_cast_eq_two_mul_midOf hN]
    ring
  rw [htie, Int.floor_natCast, Nat.cast_inj] at hfloor
  rw [hv, hfloor]

/-- Settles O25: TO_UNIPOLAR with the round trip, and FROM_UNIPOLAR outside, inside and at 1/2. -/
theorem unipolarMaps : Obligations.UnipolarMaps := by
  intro N s hN
  simp only [exec_fromUnipolar_of_mem hN]
  refine ⟨?roundTrip, ?outside, ?inside, ?half⟩
  case roundTrip =>
    intro v hv
    rw [exec_toUnipolar_of_mem hN hv, ← toUnipolar_eq, fromUnipolar_toUnipolar (scaleWidths_pos hN) hv]
    exact ⟨rfl, rfl⟩
  case outside =>
    intro x h
    rw [fromUnipolar_of_outside N h, resultOr_error]
  case inside =>
    intro x hlo hhi
    obtain ⟨v, hv, hmax, hfloor⟩ := fromUnipolar_eq_floor N hlo hhi
    exact ⟨v, by rw [hv, resultOr_ok], hmax, hfloor⟩
  case half =>
    rw [fromUnipolar_half hN]
    rfl

end Sys2Proof.Machine
end

section
/-! PROOFS. ENC_M1 (spec 41_midi1_codec.md, R180 to R196). ENC_M1 of an event in the domain ends with what `enc1` makes
of the event, and what that is stands in one equation of `m1Messages` for each variant. -/

namespace Sys2Proof.Machine

/-- ENC_M1 of an event in the domain ends with the bytes of the event, or with the error that it has none (R180). -/
theorem exec_encM1_of_wf {e : Event} {s : State} {x : Except Err (List Byte)} (hw : e.wf s.params.registry = true)
    (h : enc1 e = x) : exec (.encM1 e) s = .next (s.ended (resultOr .bytes x)) := by
  rw [exec_encM1, admitsEvent_eq_wf, if_pos hw, h]

/-- An event of one message is encoded as that message. -/
theorem enc1_of_message {e : Event} {bs : List Byte} (h : m1Messages e = .ok [bs]) : enc1 e = .ok bs := by
  simp [enc1, h]

/-- Settles O26: every variant is in the domain, and `enc1` computes to its list; a channel voice status computes to the
nibble and the channel, joined. -/
theorem encodeMidi1Messages : Obligations.EncodeMidi1Messages := by
  constructor
  · intro s n c p v a x b m l ch g
    refine ⟨?_, ?_, ?_, ?_, ?_, ?_, ?_, ?_⟩
    all_goals exact exec_encM1_of_wf (x := .ok _) rfl rfl
  · intro s d b g
    refine ⟨?_, ?_, ?_, ?_, ?_, ?_, ?_, ?_, ?_, ?_⟩
    all_goals exact exec_encM1_of_wf (x := .ok _) rfl rfl

/-- ENC_M1 of a sysEx7 with an identifier that the registry admits (R194). -/
theorem exec_encM1_sysEx7 {id : SysExID} {s : State} (h : id.wf s.params.registry = true) (data : List U7) (g : U4) :
    exec (.encM1 (.sysEx7 id data g)) s
      = .next (s.ended (.bytes (0xF0 :: ((body7 id data).map U7.byte ++ [0xF7])))) :=
  exec_encM1_of_wf (x := .ok _) h (enc1_of_message rfl)

/-- Settles O27: the identifier bytes of R294 for each kind of identifier, and the variants that have no encoding. -/
theorem encodeMidi1SysExOrUnsupported : Obligations.EncodeMidi1SysExOrUnsupported := by
  constructor
  · intro s data g
    exact ⟨fun b h => exec_encM1_sysEx7 (id := .mfr1 b) h data g,
      fun b1 b2 h => exec_encM1_sysEx7 (id := .mfr3 b1 b2) h data g,
      exec_encM1_sysEx7 (id := .universal false) rfl data g, exec_encM1_sysEx7 (id := .universal true) rfl data g⟩
  · intro s n k w id data sid t ch g
    refine ⟨?_, ?_, fun hid => exec_encM1_of_wf (x := .error _) hid rfl, ?_, ?_, ?_⟩
    all_goals exact exec_encM1_of_wf (x := .error _) rfl rfl

end Sys2Proof.Machine
end

section
/-! PROOFS. DEC_M1 (spec 41_midi1_codec.md, R200 to R215). First its checks, one equation for each that fails. Then the
event it gives for the one message of an event, `eventOfMessage`: the statements about each message and the round trip
both read off from that. -/

namespace Sys2Proof.Machine

/-- How DEC_M1 ends, by its rule's value. -/
theorem exec_decM1_of_eq {bs : List Byte} {g : U4} {s : State} {x : Except Err Event}
    (h : decM1 s.params bs g = x) : exec (.decM1 bs g) s = .next (s.ended (eventOr x)) := by
  rw [exec_decM1, h]

/-! ### The checks (R200) -/

theorem decM1_of_data_first {b : Byte} (h : b.toNat < 0x80) (p : Params) (rest : List Byte) (g : U4) :
    decM1 p (b :: rest) g = .error (.malformed .noStatus) := by
  have hb : isStatus b = false := decide_eq_false h.not_ge
  rw [decM1, hb]
  rfl

theorem decM1_sysEx_of_no_eox {rest : List Byte} (h : rest.getLast? ≠ some 0xF7) (p : Params) (g : U4) :
    decM1 p (0xF0 :: rest) g = .error (.malformed .noEox) := by
  change decM1SysEx p rest g = _
  rw [decM1SysEx, if_pos h]

theorem decM1_sysEx_of_status_in_body {body : List Byte} (h : ∃ b ∈ body, 0x80 ≤ b.toNat) (p : Params) (g : U4) :
    decM1 p (0xF0 :: (body ++ [0xF7])) g = .error (.malformed .statusInBody) := by
  change decM1SysEx p (body ++ [0xF7]) g = _
  rw [decM1SysEx, if_neg (by simp), List.dropLast_concat, asData_eq_none h]

theorem decM1_of_reserved {b : Byte} (h : b ∈ ([0xF4, 0xF5, 0xF7, 0xF9, 0xFD] : List Byte)) (p : Params)
    (rest : List Byte) (g : U4) : decM1 p (b :: rest) g = .error (.malformed .reserved) := by
  simp only [List.mem_cons, List.not_mem_nil, or_false] at h
  rcases h with rfl | rfl | rfl | rfl | rfl <;> rfl

theorem decM1_of_length_ne {b : Byte} {n : Nat} {rest : List Byte} (h : need b = some n) (h9 : b ≠ 0xF9)
    (hd : b ≠ 0xFD) (hn : rest.length ≠ n) (p : Params) (g : U4) :
    decM1 p (b :: rest) g = .error (.malformed .length) := by
  rw [decM1_message h h9 hd, if_pos hn]

theorem decM1_of_status_in_data {b : Byte} {rest : List Byte} (h : need b = some rest.length) (h9 : b ≠ 0xF9)
    (hd : b ≠ 0xFD) (hs : ∃ d ∈ rest, 0x80 ≤ d.toNat) (p : Params) (g : U4) :
    decM1 p (b :: rest) g = .error (.malformed .statusInData) := by
  rw [decM1_message h h9 hd, if_neg (not_not_intro rfl), asData_eq_none hs]

/-- Settles O28, check by check; what passes them all has an event. -/
theorem decodeMidi1ChecksInOrder : Obligations.DecodeMidi1ChecksInOrder := by
  intro s g
  refine ⟨rfl, fun b rest hb => exec_decM1_of_eq (decM1_of_data_first hb _ rest g),
    fun rest h => exec_decM1_of_eq (decM1_sysEx_of_no_eox h _ g),
    fun body h => exec_decM1_of_eq (decM1_sysEx_of_status_in_body h _ g),
    fun body => exec_decM1_of_eq (decM1_sysEx _ body g),
    fun b rest hb => exec_decM1_of_eq (decM1_of_reserved hb _ rest g), fun b h9 hd =>
    ⟨fun n rest hn hlen => exec_decM1_of_eq (decM1_of_length_ne hn h9 hd hlen _ g),
      fun rest hn hs => exec_decM1_of_eq (decM1_of_status_in_data hn h9 hd hs _ g), ?complete⟩⟩
  case complete =>
    intro d hcomplete
    obtain ⟨e, he⟩ := messageEvent_isSome hcomplete h9 hd s.params.noteOnV0AsNoteOff g
    exact ⟨e, he, exec_decM1_of_eq (decM1_complete hcomplete h9 hd he)⟩

/-! ### The event of a message -/

/-- DEC_M1 of a complete channel voice message (R201 to R207). -/
theorem decM1_chanMsg {nib ch : U4} {d : List U7} {e : Event} {p : Params} {g : U4}
    (hnib : 0x8 ≤ nib.toNat ∧ nib.toNat ≤ 0xE)
    (hlen : (if nib.toNat = 0xC ∨ nib.toNat = 0xD then 1 else 2) = d.length)
    (he : chanEvent p.noteOnV0AsNoteOff (chanStatus nib ch) d g = some e) :
    decM1 p (chanMsg nib ch d) g = .ok e := by
  have hle : (chanStatus nib ch).toNat ≤ 0xEF := by
    have := ch.isLt
    rw [toNat_chanStatus]
    omega
  have hne : ∀ b : Byte, 0xEF < b.toNat → chanStatus nib ch ≠ b := by
    rintro b hb rfl
    exact hb.not_ge hle
  have hcomplete : isComplete (chanStatus nib ch) d := (need_chanStatus ch hnib).trans (congrArg some hlen)
  refine decM1_complete hcomplete (hne _ (by decide)) (hne _ (by decide)) ?_
  rw [messageEvent, if_pos hle, he]

/-- An identifier that the registry admits is found again at the head of its body (R296, R298). -/
theorem sysEx7FromBody_body7 {r : Registry} (hok : r.ok = true) {id : SysExID} (hid : id.wf r = true) (data : List U7)
    (g : U4) : sysEx7FromBody r (body7 id data) g = .ok (.sysEx7 id data g) := by
  rw [sysEx7FromBody, body7, resolve7_idBytes7 hok hid]
  simp

/-- The event that DEC_M1 gives for the one message of an event (R201 to R213): what the message carries, at low
resolution. -/
def eventOfMessage (v0off : Bool) : Event → Event
  | .noteOff n v _ ch g => .noteOff n (.m1 (lo v)) Attr.none ch g
  | .noteOn n v _ ch g =>
    if v0off = true ∧ lo v = 0 then .noteOff n (.m1 0) Attr.none ch g else .noteOn n (.m1 (lo v)) Attr.none ch g
  | .notePressure n v ch g => .notePressure n (.m1 (lo v)) ch g
  | .cc c v ch g => .cc c (.m1 (lo v)) ch g
  | .pressure v ch g => .pressure (.m1 (lo v)) ch g
  | .pitchBend v ch g => .pitchBend (.m1 (lo v)) ch g
  | e => e

/-- DEC_M1 of the one message of an event. A SysEx is read back under R293's constraint on the registry (R298). -/
theorem decM1_of_m1Messages {e : Event} {bs : List Byte} {p : Params} (h : m1Messages e = .ok [bs])
    (hsx : catOf e = .sysEx → p.registry.ok = true ∧ e.wf p.registry = true) :
    decM1 p bs (groupOf e) = .ok (eventOfMessage p.noteOnV0AsNoteOff e) := by
  cases e with
  | noteOff | notePressure | cc | pressure | pitchBend =>
    cases h
    exact decM1_chanMsg (by decide) rfl (by simp [chanEvent, eventOfMessage, groupOf])
  | noteOn =>
    cases h
    exact decM1_chanMsg (by decide) rfl (by simp [chanEvent, eventOfMessage, groupOf, apply_ite some])
  | programChange _ bank =>
    cases bank with
    | none =>
      cases h
      exact decM1_chanMsg (by decide) rfl (by simp [chanEvent, eventOfMessage, groupOf])
    | some => cases h
  | timecodeQuarterFrame d | songSelect d =>
    cases h
    exact decM1_complete (d := [d]) rfl (by decide) (by decide) rfl
  | songPositionPointer b =>
    cases h
    refine decM1_complete (d := [lsb7 b, msb7 b]) rfl (by decide) (by decide) ?_
    exact congrArg (fun v => some (Event.songPositionPointer v _)) (join14_parts b)
  | tuneRequest | timingClock | start | stop | continue_ | activeSensing | systemReset =>
    cases h
    exact decM1_complete (d := []) rfl (by decide) (by decide) rfl
  | sysEx7 id data g =>
    cases h
    obtain ⟨hok, hid⟩ := hsx rfl
    exact (decM1_sysEx p (body7 id data) g).trans (sysEx7FromBody_body7 hok hid data g)
  | notePitchBend | noteCC | sysEx8 | noOp | jrClock | jrTimestamp => cases h

/-- How DEC_M1 ends on the one message of an event that is no SysEx. -/
theorem exec_decM1_of_m1Messages {e : Event} {bs : List Byte} (hcat : catOf e ≠ .sysEx)
    (h : m1Messages e = .ok [bs]) (s : State) : exec (.decM1 bs (groupOf e)) s
      = .next (s.ended (.event (eventOfMessage s.params.noteOnV0AsNoteOff e))) :=
  exec_decM1_of_eq (decM1_of_m1Messages h fun hsx => absurd hsx hcat)

/-- R109's `(msb << 7) | lsb`. -/
theorem join14_eq_or (l m : U7) : join14 l m = m.setWidth 14 <<< 7 ||| l.setWidth 14 := by
  unfold join14
  grind

/-- Settles O29: each message is the one message of the event that DEC_M1 gives for it, and a note on is looked at for
its velocity. -/
theorem decodeMidi1Messages : Obligations.DecodeMidi1Messages := by
  constructor
  · intro s ch g a b
    have hbend : m1Messages (.pitchBend (.m1 (join14 a b)) ch g) = .ok [chanMsg 0xE ch [a, b]] := by
      simp [m1Messages, lo]
    rw [← join14_eq_or]
    exact ⟨exec_decM1_of_m1Messages (e := .noteOff a (.m1 b) Attr.none ch g) nofun rfl s,
      exec_decM1_of_m1Messages (e := .noteOn a (.m1 b) Attr.none ch g) nofun rfl s,
      exec_decM1_of_m1Messages (e := .notePressure a (.m1 b) ch g) nofun rfl s,
      exec_decM1_of_m1Messages (e := .cc a (.m1 b) ch g) nofun rfl s,
      exec_decM1_of_m1Messages (e := .programChange a none ch g) nofun rfl s,
      exec_decM1_of_m1Messages (e := .pressure (.m1 a) ch g) nofun rfl s,
      exec_decM1_of_m1Messages (e := .pitchBend (.m1 (join14 a b)) ch g) nofun hbend s⟩
  · intro s g a b
    have hposition : m1Messages (.songPositionPointer (join14 a b) g) = .ok [[0xF2, a.byte, b.byte]] := by
      simp [m1Messages]
    rw [← join14_eq_or]
    exact ⟨exec_decM1_of_m1Messages (e := .timecodeQuarterFrame a g) nofun rfl s,
      exec_decM1_of_m1Messages (e := .songPositionPointer (join14 a b) g) nofun hposition s,
      exec_decM1_of_m1Messages (e := .songSelect a g) nofun rfl s,
      exec_decM1_of_m1Messages (e := .tuneRequest g) nofun rfl s,
      exec_decM1_of_m1Messages (e := .timingClock g) nofun rfl s,
      exec_decM1_of_m1Messages (e := .start g) nofun rfl s,
      exec_decM1_of_m1Messages (e := .continue_ g) nofun rfl s,
      exec_decM1_of_m1Messages (e := .stop g) nofun rfl s,
      exec_decM1_of_m1Messages (e := .activeSensing g) nofun rfl s,
      exec_decM1_of_m1Messages (e := .systemReset g) nofun rfl s⟩

/-! ### The round trip (R215) -/

/-- An event that MIDI 1.0 carries and that has no bank is one message. -/
theorem m1Messages_of_plainFields {e : Event} (hin : inMidi1 e = true) (hplain : plainFields e = true) :
    ∃ bs, m1Messages e = .ok [bs] := by
  cases e with
  | programChange _ bank =>
    cases bank with
    | none => exact ⟨_, rfl⟩
    | some => cases hplain
  | notePitchBend | noteCC | sysEx8 | noOp | jrClock | jrTimestamp => cases hin
  | _ => exact ⟨_, rfl⟩

/-- A message carries an event whole when its `attr` is `(0, 0)` and its values are exact at low resolution (R40). -/
theorem simEvent_eventOfMessage {e : Event} (hplain : plainFields e = true) (hexact : lowExact e = true) :
    simEvent (eventOfMessage false e) e = true := by
  cases e with
  | noteOff | noteOn =>
    simp only [plainFields, beq_iff_eq] at hplain
    simpa [simEvent, hiEvent, eventOfMessage, lowExact, hplain] using hexact
  | notePressure | cc | pressure | pitchBend =>
    simpa [simEvent, hiEvent, eventOfMessage, lowExact] using hexact
  | _ => exact beq_self_eq_true _

/-- Settles O30: a representable event is one message, DEC_M1 gives `eventOfMessage` for it, and that is `~` the event;
with `NOTEON_V0_AS_NOTEOFF` true it is a note off for the note on of velocity byte 0. -/
theorem midi1RoundTrip : Obligations.Midi1RoundTrip := by
  constructor
  · intro e s hw hrep hok hv0
    simp only [representableM1, Bool.and_eq_true] at hrep
    obtain ⟨⟨hin, hplain⟩, hexact⟩ := hrep
    obtain ⟨bs, hbs⟩ := m1Messages_of_plainFields hin hplain
    exact ⟨bs, eventOfMessage s.params.noteOnV0AsNoteOff e, exec_encM1_of_wf hw (enc1_of_message hbs),
      exec_decM1_of_eq (decM1_of_m1Messages hbs fun _ => ⟨hok, hw⟩), hv0 ▸ simEvent_eventOfMessage hplain hexact⟩
  · intro n v a ch g s hv0 hvel
    have hoff : eventOfMessage s.params.noteOnV0AsNoteOff (.noteOn n v a ch g) = .noteOff n (.m1 0) Attr.none ch g :=
      if_pos ⟨hv0, hvel⟩
    refine ⟨chanMsg 0x9 ch [n, lo v], _, exec_encM1_of_wf (x := .ok _) rfl (enc1_of_message rfl),
      exec_decM1_of_m1Messages (e := .noteOn n v a ch g) nofun rfl s, ?_⟩
    rw [hoff]
    simp [simEvent, hiEvent]

end Sys2Proof.Machine
end

section
/-! PROOFS. ENC_UMP (spec 42_ump_codec.md, R230 to R244). The words of each variant as shifted fields: the one word of a
MIDI 1.0 message by its length, the words of MT 0x4, and then the packets of a SysEx body, each read off from the chunk
that it carries. -/

namespace Sys2Proof.Machine

/-- ENC_UMP of an event in the domain ends with its words, or with the error that it has none (R230). -/
theorem exec_encUmp_of_wf {e : Event} {P : Protocol} {s : State} {x : Except Err (List Word)}
    (hw : e.wf s.params.registry = true) (h : encUmp e P = x) :
    exec (.encUmp e P) s = .next (s.ended (resultOr .words x)) := by
  rw [exec_encUmp, admitsEvent_eq_wf, if_pos hw, h]

theorem packWord_eq_fields (mt g st ch : U4) (a b : Byte) :
    packWord mt g st ch a b = hdr mt g ||| field st 20 ||| field ch 16 ||| field a 8 ||| field b 0 := by
  unfold packWord hdr field
  ext i hi
  simp
  grind

/-- The same for words in another form. -/
theorem exec_encUmp_words {e : Event} {P : Protocol} {s : State} {ws ws' : List Word}
    (hw : e.wf s.params.registry = true) (h : encUmp e P = .ok ws) (heq : ws = ws') :
    exec (.encUmp e P) s = .next (s.ended (.words ws')) :=
  heq ▸ exec_encUmp_of_wf hw h

/-! ### Fields that are zero -/

theorem or_field_zero (w : Word) (n k : Nat) : w ||| field (0 : BitVec n) k = w := by
  rw [field_zero]
  exact BitVec.or_zero

theorem or_zero_shiftLeft (w : Word) (k : Nat) : w ||| ((0 <<< k : Nat) : Word) = w := by
  rw [Nat.zero_shiftLeft]
  exact BitVec.or_zero

/-! ### The word of a MIDI 1.0 message, by its length (R231, R241) -/

theorem msgWord_one (mt g : U4) (s : Byte) : msgWord mt g [s] = hdr mt g ||| field s 16 := by
  simp only [msgWord, List.getD_cons_zero, List.getD_cons_succ, List.getD_nil, packStatus_eq_fields, or_field_zero]

theorem msgWord_two (mt g : U4) (s : Byte) (a : U7) :
    msgWord mt g [s, a.byte] = hdr mt g ||| field s 16 ||| field a 8 := by
  simp only [msgWord, List.getD_cons_zero, List.getD_cons_succ, List.getD_nil, packStatus_eq_fields, field_byte,
    or_field_zero]

theorem msgWord_three (mt g : U4) (s : Byte) (a b : U7) :
    msgWord mt g [s, a.byte, b.byte] = hdr mt g ||| field s 16 ||| field a 8 ||| field b 0 := by
  rw [← field_byte, ← field_byte, ← packStatus_eq_fields]
  rfl

theorem msgWord_chanMsg_one (mt g nib ch : U4) (a : U7) :
    msgWord mt g (chanMsg nib ch [a]) = hdr mt g ||| field nib 20 ||| field ch 16 ||| field a 8 := by
  rw [BitVec.or_assoc (hdr mt g), ← field_chanStatus]
  exact msgWord_two ..

theorem msgWord_chanMsg_two (mt g nib ch : U4) (a b : U7) :
    msgWord mt g (chanMsg nib ch [a, b]) = hdr mt g ||| field nib 20 ||| field ch 16 ||| field a 8 ||| field b 0 := by
  rw [BitVec.or_assoc (hdr mt g), ← field_chanStatus]
  exact msgWord_three ..

/-- Settles O31: word 0 is the header and the fields of its opcode, and word 1 what the opcode carries. -/
theorem encodeUmpMidi2ChannelVoice : Obligations.EncodeUmpMidi2ChannelVoice := by
  intro s n v a x b m l i w ch g
  refine ⟨?_, ?_, ?_, ?_, ?_, ?_, ?_, ?_, ?_, ?opcode0, ?_⟩
  case opcode0 =>
    refine exec_encUmp_words rfl rfl ?_
    simp only [head4, packWord_eq_fields, field_byte, or_field_zero, or_zero_shiftLeft]
  all_goals
    refine exec_encUmp_words rfl rfl ?_
    simp only [head4, packWord_eq_fields, packHalves_eq_fields, packBytes_eq_fields, field_byte, or_field_zero]
    rfl

/-- Settles O32: the messages of each variant, each as one word; the Utility words hold their own fields. -/
theorem encodeUmpOneWordMessages : Obligations.EncodeUmpOneWordMessages := by
  constructor
  · intro s n v a x b m l k w ch g
    refine ⟨?_, ?_, ?_, ?_, ?_, ?_, ?_, ?_, exec_encUmp_of_wf (x := .error _) rfl rfl,
      exec_encUmp_of_wf (x := .error _) rfl (by cases k <;> rfl)⟩
    all_goals
      refine exec_encUmp_words rfl rfl ?_
      simp only [List.map_cons, List.map_nil, msgWord_chanMsg_one, msgWord_chanMsg_two, or_field_zero,
        or_zero_shiftLeft]
      rfl
  · intro s P d b t g
    refine ⟨?_, ?_, ?_, ?_, ?_, ?_, ?_, ?_, ?_, ?_, ?noOp, ?_, ?_⟩
    case noOp =>
      refine exec_encUmp_words rfl rfl ?_
      simp only [packLo16_eq_fields, or_field_zero]
    all_goals
      refine exec_encUmp_words rfl rfl ?_
      simp only [List.map_cons, List.map_nil, msgWord_one, msgWord_two, msgWord_three, packLo16_eq_fields,
        or_field_zero]
      rfl

/-! ### SysEx packets, word by word (R242, R243) -/

/-- Chunk `j` of a list (R8). -/
abbrev chunkAt {α : Type} (k : Nat) (xs : List α) (j : Nat) : List α := (xs.drop (k * j)).take k

theorem chunkAt_getD {k i : Nat} (hi : i < k) (body : List Byte) (j : Nat) :
    (chunkAt k body j).getD i 0 = body.getD (k * j + i) 0 := by
  simp only [List.getD_eq_getElem?_getD, List.getElem?_take, if_pos hi, List.getElem?_drop]

theorem chunkAt_length (k : Nat) (body : List Byte) (j : Nat) :
    (chunkAt k body j).length = min k (body.length - k * j) := by
  rw [List.length_take, List.length_drop]

theorem packets_length {packet : U4 → List Byte → List Word} {n k : Nat} (hn : ∀ st c, (packet st c).length = n)
    (hk : 0 < k) (body : List Byte) : (packets packet k body).length = n * ceilDiv body.length k := by
  rw [packets, packetsFrom_length hn, chunks_length hk]

/-- The words of packet `j` are those of chunk `j`. -/
theorem packets_getElem? {packet : U4 → List Byte → List Word} {n k : Nat} (hn : ∀ st c, (packet st c).length = n)
    (hk : 0 < k) {body : List Byte} {j r : Nat} (hj : j < ceilDiv body.length k) (hr : r < n) :
    (packets packet k body)[n * j + r]?
      = (packet (packetStatus j (ceilDiv body.length k)) (chunkAt k body j))[r]? := by
  rw [packets, packetsFrom_getElem? hn _ _ _ _ _ hr, chunks_getElem? hk, if_pos ((lt_ceilDiv_iff hk).mp hj),
    chunks_length hk, Nat.zero_add]
  rfl

theorem field_packetStatus (j m : Nat) : field (packetStatus j m) 20 = statusOf j m <<< 20 := by
  rw [field, packetStatus_eq_statusOf]

theorem field_count {n : Nat} (hn : n < 16) : field (BitVec.ofNat 4 n) 16 = BitVec.ofNat 32 n <<< 16 := by
  rw [field, (setWidth_eq_ofNat hn).mpr rfl]

/-- Four bytes of a chunk, from its byte `n` on, are four bytes of the body, from byte `i` on. -/
theorem wordAt_chunkAt {k n r i j : Nat} (hr : n + 4 * r + 3 < k) (hi : i = k * j + n + 4 * r) (body : List Byte) :
    wordAt ((chunkAt k body j).drop n) r = bodyField body i 24 ||| bodyField body (i + 1) 16
      ||| bodyField body (i + 2) 8 ||| bodyField body (i + 3) 0 := by
  have hget : ∀ d < 4, ((chunkAt k body j).drop n).getD (4 * r + d) 0 = body.getD (i + d) 0 := by
    intro d hd
    rw [List.getD_eq_getElem?_getD, List.getElem?_drop, ← List.getD_eq_getElem?_getD, chunkAt_getD (by omega), hi]
    congr 1
    omega
  rw [wordAt, packBytes_eq_fields, hget 1 (by decide), hget 2 (by decide), hget 3 (by decide)]
  exact congrArg (fun b => field b 24 ||| _ ||| _ ||| _) (hget 0 (by decide))

theorem packet7_chunkAt (g st : U4) (body : List Byte) (j : Nat) : packet7 g st (chunkAt 6 body j)
    = [hdr 0x3 g ||| field st 20 ||| BitVec.ofNat 32 (min 6 (body.length - 6 * j)) <<< 16
        ||| bodyField body (6 * j) 8 ||| bodyField body (6 * j + 1) 0,
      bodyField body (6 * j + 2) 24 ||| bodyField body (6 * j + 3) 16 ||| bodyField body (6 * j + 4) 8
        ||| bodyField body (6 * j + 5) 0] := by
  rw [packet7, packWord_eq_fields, wordAt_chunkAt (i := 6 * j + 2) (by decide) rfl, chunkAt_length,
    field_count (by omega), chunkAt_getD (by decide), chunkAt_getD (by decide)]
  rfl

theorem packet8_chunkAt (g st : U4) (sid : Byte) (body : List Byte) (j : Nat) :
    packet8 g st sid (chunkAt 13 body j)
      = (hdr 0x5 g ||| field st 20 ||| BitVec.ofNat 32 (min 13 (body.length - 13 * j) + 1) <<< 16
        ||| field sid 8 ||| bodyField body (13 * j) 0) :: (List.range 3).map fun k =>
          bodyField body (13 * j + 4 * k + 1) 24 ||| bodyField body (13 * j + 4 * k + 2) 16
            ||| bodyField body (13 * j + 4 * k + 3) 8 ||| bodyField body (13 * j + 4 * k + 4) 0 := by
  rw [packet8, packWord_eq_fields, wordAt_chunkAt (i := 13 * j + 4 * 0 + 1) (by decide) rfl,
    wordAt_chunkAt (i := 13 * j + 4 * 1 + 1) (by decide) rfl,
    wordAt_chunkAt (i := 13 * j + 4 * 2 + 1) (by decide) rfl, chunkAt_length,
    field_count (by omega), chunkAt_getD (by decide)]
  rfl

/-- Settles O33: packet `j` is that of chunk `j`, whose bytes are the body's from `6 j` or `13 j` on. -/
theorem encodeUmpSysExPackets : Obligations.EncodeUmpSysExPackets := by
  constructor
  · rintro s P id data g body hid rfl
    refine ⟨_, exec_encUmp_of_wf (x := .ok _) hid rfl, packets_length (packet7_length g) (by decide) _, fun j hj => ?_⟩
    rw [← field_packetStatus]
    constructor
    · exact (packets_getElem? (packet7_length g) (by decide) hj (r := 0) (by decide)).trans
        (congrArg (·[0]?) (packet7_chunkAt ..))
    · exact (packets_getElem? (packet7_length g) (by decide) hj (r := 1) (by decide)).trans
        (congrArg (·[1]?) (packet7_chunkAt ..))
  · rintro s P id data sid g body hid rfl
    have hlen := fun st c => packet8_length g st sid c
    refine ⟨_, exec_encUmp_of_wf (x := .ok _) hid rfl, packets_length hlen (by decide) _, fun j hj => ?_⟩
    rw [← field_packetStatus]
    constructor
    · exact (packets_getElem? hlen (by decide) hj (r := 0) (by decide)).trans
        (congrArg (·[0]?) (packet8_chunkAt ..))
    · intro k hk
      have hword := packets_getElem? hlen (by decide) hj (r := k + 1) (by omega)
      rw [packet8_chunkAt, List.getElem?_cons_succ, List.getElem?_map, List.getElem?_range hk] at hword
      rw [Nat.add_assoc, Nat.add_comm 1]
      exact hword

end Sys2Proof.Machine
end

section
/-! PROOFS. The UMP round trip (spec 42_ump_codec.md, R266). DEC_UMP of the word of a MIDI 1.0 message is DEC_M1 of the
message, so that the events carried as such messages come back as in `decM1_of_m1Messages`; the packets of a SysEx body
join to that body; and MT 0x4 gives each channel voice event back at high resolution. -/

namespace Sys2Proof.Machine

/-- How DEC_UMP ends, by its rule's value. -/
theorem exec_decUmp_of_eq {ws : List Word} {s : State} {x : Except Err Event} (h : decUmp s.params ws = x) :
    exec (.decUmp ws) s = .next (s.ended (eventOr x)) := by
  rw [exec_decUmp, h]

/-! ### One-word messages -/

theorem length_le_two_of_isComplete {s : Byte} {d : List U7} (h : isComplete s d) : d.length ≤ 2 := by
  have all : ∀ s : Byte, ∀ n ∈ need s, n ≤ 2 := by decide
  exact all s _ h

/-- A message that DEC_M1 decodes, other than SysEx: its status byte has the data bytes that follow it, and the event is
that of both (R200). -/
theorem message_of_decM1_ok {p : Params} {s : Byte} {rest : List Byte} {g : U4} {e : Event}
    (h : decM1 p (s :: rest) g = .ok e) (hs : s ≠ 0xF0) :
    ∃ d, rest = d.map U7.byte ∧ isStatus s = true ∧ isReservedM1 s = false ∧ isComplete s d
      ∧ messageEvent p.noteOnV0AsNoteOff s d g = some e := by
  simp only [decM1, if_neg hs] at h
  split at h
  · cases h
  rename_i hstatus
  split at h
  · cases h
  rename_i hreserved
  split at h
  · cases h
  rename_i hneed
  split at h
  · cases h
  rename_i d hd
  split at h
  · rename_i he
    cases h
    obtain rfl := asData_eq_some hd
    exact ⟨d, rfl, by simpa using hstatus, by simpa using hreserved, by simpa [isComplete] using hneed, he⟩
  · cases h

theorem decShort_of_isComplete {s : Byte} {d : List U7} {v0off : Bool} {g : U4} {e : Event} (h : isComplete s d)
    (he : messageEvent v0off s d g = some e) :
    decShort v0off s ((d.map U7.byte).getD 0 0) ((d.map U7.byte).getD 1 0) g = .ok e := by
  have hlen := length_le_two_of_isComplete h
  have hneed : need s = some d.length := h
  have htake : [(d.map U7.byte).getD 0 0, (d.map U7.byte).getD 1 0].take d.length = d.map U7.byte := by
    rcases d with _ | ⟨a, _ | ⟨b, _ | ⟨c, d⟩⟩⟩
    · rfl
    · rfl
    · rfl
    · simp at hlen
  rw [decShort, hneed, Option.getD_some, htake, asData_map_byte]
  simp only [he]

theorem messageEvent_of_system {s : Byte} (hs : 0xEF < s.toNat) (v v' : Bool) (d : List U7) (g : U4) :
    messageEvent v s d g = messageEvent v' s d g := by
  rw [messageEvent, messageEvent, if_neg hs.not_ge, if_neg hs.not_ge]

theorem msgWord_cons (mt g : U4) (s : Byte) (rest : List Byte) :
    msgWord mt g (s :: rest) = packStatus mt g s (rest.getD 0 0) (rest.getD 1 0) := rfl

/-- A channel voice message decodes from its MT 0x2 word as from its bytes (R253). -/
theorem decUmp_msgWord_voice {p : Params} {s : Byte} {rest : List Byte} {g : U4} {e : Event} (hs : s.toNat ≤ 0xEF)
    (h : decM1 p (s :: rest) g = .ok e) : decUmp p [msgWord 0x2 g (s :: rest)] = .ok e := by
  obtain ⟨d, rfl, hst, -, hcomplete, he⟩ := message_of_decM1_ok h (by rintro rfl; exact absurd hs (by decide))
  have hnib : ¬(nibble s < 0x8 ∨ nibble s = 0xF) := by
    simp only [isStatus, decide_eq_true_eq] at hst
    simp only [nibble]
    omega
  rw [msgWord_cons, decUmp_mt2 (mtOf_packStatus ..), byte1_packStatus, byte2_packStatus, byte3_packStatus,
    grpOf_packStatus]
  rw [decVoice1, if_neg hnib, decShort_of_isComplete hcomplete he]

/-- A System message decodes from its MT 0x1 word as from its bytes (R252). -/
theorem decUmp_msgWord_system {p : Params} {s : Byte} {rest : List Byte} {g : U4} {e : Event} (hs : 0xF0 < s.toNat)
    (h : decM1 p (s :: rest) g = .ok e) : decUmp p [msgWord 0x1 g (s :: rest)] = .ok e := by
  obtain ⟨d, rfl, -, hres, hcomplete, he⟩ := message_of_decM1_ok h (by rintro rfl; exact absurd hs (by decide))
  have all : ∀ s : Byte, 0xF0 < s.toNat → isReservedM1 s = false → isMt1Status s = true := by decide
  rw [msgWord_cons, decUmp_mt1 (mtOf_packStatus ..), byte1_packStatus, byte2_packStatus, byte3_packStatus,
    grpOf_packStatus]
  rw [decSystem, if_pos (all s hs hres)]
  exact decShort_of_isComplete hcomplete (messageEvent_of_system (Nat.lt_of_succ_lt hs) _ _ _ _ ▸ he)

/-! ### SysEx packets -/

/-- The chunks of a body, each with the packet status of its place (R242). -/
def statused {α : Type} (cs : List (List α)) : List (U4 × List α) :=
  cs.mapIdx fun i c => (packetStatus i cs.length, c)

theorem statused_map_snd {α : Type} (cs : List (List α)) : (statused cs).map (·.2) = cs := by
  simp [statused, List.mapIdx_eq_zipIdx_map, Function.comp_def]

theorem packetsFrom_eq_flatMap (packet : U4 → List Byte → List Word) (m j : Nat) (cs : List (List Byte)) :
    packetsFrom packet m j cs
      = (cs.mapIdx fun i c => (packetStatus (j + i) m, c)).flatMap fun x => packet x.1 x.2 := by
  induction cs generalizing j with
  | nil => rfl
  | cons c cs ih =>
    simp only [packetsFrom, ih, List.mapIdx_cons, List.flatMap_cons, Nat.add_zero]
    simp only [Nat.add_assoc, Nat.add_comm 1]

theorem packets_eq_flatMap (packet : U4 → List Byte → List Word) (k : Nat) (body : List Byte) :
    packets packet k body = (statused (chunks k body)).flatMap fun x => packet x.1 x.2 := by
  rw [packets, packetsFrom_eq_flatMap]
  simp only [Nat.zero_add, statused]

theorem joinPackets_of_statusesOk {α : Type} {build : List α → Byte → U4 → Except Err Event} {ps : List (Packet α)}
    {g : U4} {sid : Byte} (hst : statusesOk ps = true) (hsame : ∀ x ∈ ps, x.g = g ∧ x.sid = sid) :
    joinPackets build ps = build (ps.flatMap (·.bytes)) sid g := by
  cases ps with
  | nil => cases hst
  | cons p0 rest =>
    obtain ⟨rfl, rfl⟩ := hsame p0 List.mem_cons_self
    rw [joinPackets_cons, if_pos ⟨fun x hx => hsame x (List.mem_cons_of_mem _ hx), hst⟩]

/-- The packets of a list of chunks join to all their bytes (R265). -/
theorem joinPackets_statused {α β : Type} (build : List β → Byte → U4 → Except Err Event) (g : U4) (sid : Byte)
    (f : α → β) {cs : List (List α)} (hne : cs ≠ []) :
    joinPackets build ((statused cs).map fun x => ⟨g, x.1, sid, x.2.map f⟩) = build (cs.flatten.map f) sid g := by
  rw [joinPackets_of_statusesOk (g := g) (sid := sid)]
  case hst =>
    rw [statusesOk_iff]
    refine ⟨by simpa [statused] using hne, fun i x hx => ?_⟩
    simp only [statused, List.getElem?_map, List.getElem?_mapIdx, Option.map_map, Option.map_eq_some_iff] at hx
    obtain ⟨c, -, rfl⟩ := hx
    simpa [statused] using packetStatus_eq_statusOf i cs.length
  case hsame =>
    intro x hx
    obtain ⟨y, -, rfl⟩ := List.mem_map.mp hx
    exact ⟨rfl, rfl⟩
  congr 1
  conv_rhs => rw [← statused_map_snd cs]
  simp [List.flatMap_def, List.map_flatten, Function.comp_def]

theorem take_map_getD_range {c : List Byte} {n : Nat} (h : c.length ≤ n) :
    ((List.range n).map fun i => c.getD i 0).take c.length = c := by
  apply List.ext_getElem
  · simpa using h
  · intro i _ hi
    simp [hi]

/-- The fields of the packet of a chunk of a sysEx7 body (R242). -/
def pack7Of (c : List Byte) : Pack7 := ⟨BitVec.ofNat 4 c.length, c.getD 0 0, c.getD 1 0, wordAt (c.drop 2) 0⟩

/-- The words of a chunk's packet, as the decoder splits them. -/
def words7 (g : U4) (x : U4 × List Byte) : Word × Word :=
  (packWord 0x3 g x.1 (pack7Of x.2).n (pack7Of x.2).b0 (pack7Of x.2).b1, (pack7Of x.2).w1)

theorem pairs_packets7 (g : U4) (k : Nat) (body : List Byte) :
    pairs (packets (packet7 g) k body) = some ((statused (chunks k body)).map (words7 g)) := by
  rw [packets_eq_flatMap]
  exact pairs_flatMap (words7 g) _

theorem pack7Of_n {c : List Byte} (h : c.length ≤ 6) : (pack7Of c).n.toNat = c.length := by
  simp only [pack7Of, BitVec.toNat_ofNat]
  omega

theorem pack7Of_body {c : List Byte} (h : c.length ≤ 6) : (pack7Of c).body = c := by
  have hlist : (pack7Of c).body = ((List.range 6).map fun i => c.getD i 0).take (pack7Of c).n.toNat := by
    simp [Pack7.body, pack7Of, wordAt, List.range_succ]
  rw [hlist, pack7Of_n h, take_map_getD_range h]

/-- The fields of the packet of a chunk of a sysEx8 body (R243). -/
def pack8Of (c : List Byte) : Pack8 :=
  ⟨BitVec.ofNat 4 (c.length + 1), c.getD 0 0, wordAt (c.drop 1) 0, wordAt (c.drop 1) 1, wordAt (c.drop 1) 2⟩

/-- The words of a chunk's packet, as the decoder splits them. -/
def words8 (g : U4) (sid : Byte) (x : U4 × List Byte) : Word × Word × Word × Word :=
  (packWord 0x5 g x.1 (pack8Of x.2).n sid (pack8Of x.2).b0, (pack8Of x.2).w1, (pack8Of x.2).w2, (pack8Of x.2).w3)

theorem quads_packets8 (g : U4) (sid : Byte) (k : Nat) (body : List Byte) :
    quads (packets (fun st c => packet8 g st sid c) k body) = some ((statused (chunks k body)).map (words8 g sid)) := by
  rw [packets_eq_flatMap]
  exact quads_flatMap (words8 g sid) _

theorem pack8Of_n {c : List Byte} (h : c.length ≤ 13) : (pack8Of c).n.toNat = c.length + 1 := by
  simp only [pack8Of, BitVec.toNat_ofNat]
  omega

theorem pack8Of_body {c : List Byte} (h : c.length ≤ 13) : (pack8Of c).body = c := by
  have hlist : (pack8Of c).body = ((List.range 13).map fun i => c.getD i 0).take ((pack8Of c).n.toNat - 1) := by
    simp [Pack8.body, pack8Of, wordAt, List.range_succ]
  rw [hlist, pack8Of_n h, Nat.add_sub_cancel, take_map_getD_range h]

theorem packetStatus_le_three (j m : Nat) : (packetStatus j m).toNat ≤ 0x3 := by
  unfold packetStatus
  split
  · decide
  · split
    · decide
    · split <;> decide

theorem mem_statused {α : Type} {cs : List (List α)} {x : U4 × List α} (h : x ∈ statused cs) :
    x.1.toNat ≤ 0x3 ∧ x.2 ∈ cs := by
  obtain ⟨i, hi, rfl⟩ := List.mem_mapIdx.mp h
  exact ⟨packetStatus_le_three _ _, List.getElem_mem hi⟩

theorem unpack7_packet7 {g : U4} {x : U4 × List Byte} {body : List U7}
    (hx : x ∈ statused (chunks 6 (body.map U7.byte))) :
    unpack7 (words7 g x) = .ok ⟨g, x.1, 0, x.2.map Byte.low7⟩ := by
  obtain ⟨hst, hmem⟩ := mem_statused hx
  obtain ⟨-, hlen⟩ := length_of_mem_chunks (by decide) hmem
  have hbody := pack7Of_body hlen
  have hdata : ∀ b ∈ x.2, isStatus b = false := by
    intro b hb
    have : b ∈ (chunks 6 (body.map U7.byte)).flatten := List.mem_flatten.mpr ⟨_, hmem, hb⟩
    rw [chunks_flatten (by decide)] at this
    obtain ⟨v, -, rfl⟩ := List.mem_map.mp this
    exact isStatus_byte v
  have hcounted : (pack7Of x.2).counted := (pack7Of_n hlen).trans_le hlen
  rw [words7, unpack7_pack7 hst hcounted (by rwa [hbody]), hbody]

theorem unpack8_packet8 {g : U4} {sid : Byte} {x : U4 × List Byte} {body : List Byte}
    (hx : x ∈ statused (chunks 13 body)) : unpack8 (words8 g sid x) = .ok ⟨g, x.1, sid, x.2⟩ := by
  obtain ⟨hst, hmem⟩ := mem_statused hx
  obtain ⟨-, hlen⟩ := length_of_mem_chunks (by decide) hmem
  have hcounted : (pack8Of x.2).counted := by
    rw [Pack8.counted, pack8Of_n hlen]
    omega
  rw [words8, unpack8_pack8 hst hcounted, pack8Of_body hlen]

theorem chunks_ne_nil {α : Type} {k : Nat} (hk : 0 < k) {xs : List α} (h : xs ≠ []) : chunks k xs ≠ [] := by
  intro hc
  apply h
  rw [← chunks_flatten hk xs, hc, List.flatten_nil]

theorem unpackAll_map {α β γ : Type} {unpack : β → Except Err γ} {h : α → β} {f : α → γ} {l : List α}
    (hl : ∀ a ∈ l, unpack (h a) = .ok (f a)) : unpackAll unpack (l.map h) = .ok (l.map f) := by
  induction l with
  | nil => rfl
  | cons a l ih =>
    simp only [List.map_cons, unpackAll, hl a List.mem_cons_self, ih fun b hb => hl b (List.mem_cons_of_mem _ hb)]

theorem map_low7_map_byte (body : List U7) : (body.map U7.byte).map Byte.low7 = body := by
  rw [List.map_map]
  exact (List.map_congr_left fun v _ => low7_byte v).trans (List.map_id body)

theorem decSysEx7_packets (r : Registry) (g : U4) {body : List U7} (hne : body ≠ []) :
    decSysEx7 r (packets (packet7 g) 6 (body.map U7.byte)) = sysEx7FromBody r body g := by
  have hchunks : chunks 6 (body.map U7.byte) ≠ [] := chunks_ne_nil (by decide) (by simpa using hne)
  simp only [decSysEx7, pairs_packets7, unpackAll_map fun x hx => unpack7_packet7 hx]
  rw [joinPackets_statused _ g 0 Byte.low7 hchunks, chunks_flatten (by decide), map_low7_map_byte]

theorem decSysEx8_packets (r : Registry) (g : U4) (sid : Byte) {body : List Byte} (hne : body ≠ []) :
    decSysEx8 r (packets (fun st c => packet8 g st sid c) 13 body) = sysEx8FromBody r body sid g := by
  have hjoin := joinPackets_statused (sysEx8FromBody r) g sid id (chunks_ne_nil (k := 13) (by decide) hne)
  simp only [List.map_id, chunks_flatten (k := 13) (by decide)] at hjoin
  simp only [decSysEx8, quads_packets8, unpackAll_map fun x hx => unpack8_packet8 hx]
  exact hjoin

theorem packets_eq_append {packet : U4 → List Byte → List Word} {k : Nat} (hk : 0 < k) {body : List Byte}
    (hne : body ≠ []) : ∃ st c rest, packets packet k body = packet st c ++ rest := by
  obtain ⟨c, cs, hc⟩ := List.exists_cons_of_ne_nil (chunks_ne_nil hk hne)
  exact ⟨_, c, _, by rw [packets, hc, packetsFrom]⟩

theorem decUmp_packets7 (p : Params) (g : U4) {body : List U7} (hne : body ≠ []) :
    decUmp p (packets (packet7 g) 6 (body.map U7.byte)) = sysEx7FromBody p.registry body g := by
  obtain ⟨st, c, rest, h⟩ := packets_eq_append (packet := packet7 g) (k := 6) (by decide)
    (List.map_eq_nil_iff.not.mpr hne)
  rw [← decSysEx7_packets p.registry g hne, h]
  exact decUmp_mt3 (mtOf_packWord ..) _ p

theorem decUmp_packets8 (p : Params) (g : U4) (sid : Byte) {body : List Byte} (hne : body ≠ []) :
    decUmp p (packets (fun st c => packet8 g st sid c) 13 body) = sysEx8FromBody p.registry body sid g := by
  obtain ⟨st, c, rest, h⟩ := packets_eq_append (packet := fun st c => packet8 g st sid c) (k := 13) (by decide) hne
  rw [← decSysEx8_packets p.registry g sid hne, h]
  exact decUmp_mt5 (mtOf_packWord ..) _ p

theorem sysEx8FromBody_body8 {r : Registry} (hok : r.ok = true) {id : SysExID} (hid : id.wf r = true)
    (data : List Byte) (sid : Byte) (g : U4) :
    sysEx8FromBody r (body8 id data) sid g = .ok (.sysEx8 id data sid g) := by
  have hlen : (idBytes8 id).length = 2 := by rcases id with _ | _ | (_ | _) <;> rfl
  rw [sysEx8FromBody, body8, resolve8_idBytes8 hok hid]
  simp [← hlen]

theorem body7_ne_nil (id : SysExID) (data : List U7) : body7 id data ≠ [] := by
  rcases id with _ | _ | (_ | _) <;> exact List.cons_ne_nil _ _

theorem body8_ne_nil (id : SysExID) (data : List Byte) : body8 id data ≠ [] := by
  rcases id with _ | _ | (_ | _) <;> exact List.cons_ne_nil _ _

/-! ### The words of an event that MIDI 1.0 carries (R231, R241) -/

theorem encUmp_M1_of_chanVoice {e : Event} (hcat : catOf e = .chanVoice) :
    encUmp e .M1 = msgWords 0x2 (groupOf e) e := by
  cases e with
  | noteOff | noteOn | notePressure | cc | pressure | pitchBend | notePitchBend => rfl
  | programChange _ bank => cases bank <;> rfl
  | noteCC _ controller => cases controller <;> rfl
  | _ => cases hcat

theorem encUmp_of_system {e : Event} (hcat : catOf e = .systemCommon ∨ catOf e = .systemRealTime) (P : Protocol) :
    encUmp e P = msgWords 0x1 (groupOf e) e := by
  cases e with
  | timecodeQuarterFrame | songPositionPointer | songSelect | tuneRequest => rfl
  | timingClock | start | stop | continue_ | activeSensing | systemReset => rfl
  | _ => rcases hcat with h | h <;> cases h

theorem msgWords_of_message {e : Event} {bs : List Byte} (h : m1Messages e = .ok [bs]) (mt g : U4) :
    msgWords mt g e = .ok [msgWord mt g bs] := by
  rw [msgWords, h]
  rfl

theorem m1Messages_of_chanVoice {e : Event} (hcat : catOf e = .chanVoice) (hin : inUmp .M1 e = true)
    (hplain : plainFields e = true) : ∃ st rest, m1Messages e = .ok [st :: rest] ∧ st.toNat ≤ 0xEF := by
  have hvoice : ∀ nib ch : U4, nib ≠ 0xF → (chanStatus nib ch).toNat ≤ 0xEF := by decide
  cases e with
  | noteOff | noteOn | notePressure | cc | pressure | pitchBend => exact ⟨_, _, rfl, hvoice _ _ (by decide)⟩
  | programChange _ bank =>
    cases bank with
    | none => exact ⟨_, _, rfl, hvoice _ _ (by decide)⟩
    | some => cases hplain
  | notePitchBend | noteCC => cases hin
  | _ => cases hcat

theorem m1Messages_of_system {e : Event} (hcat : catOf e = .systemCommon ∨ catOf e = .systemRealTime) :
    ∃ st rest, m1Messages e = .ok [st :: rest] ∧ 0xF0 < st.toNat := by
  cases e with
  | timecodeQuarterFrame | songPositionPointer | songSelect | tuneRequest => exact ⟨_, _, rfl, by decide⟩
  | timingClock | start | stop | continue_ | activeSensing | systemReset => exact ⟨_, _, rfl, by decide⟩
  | _ => rcases hcat with h | h <;> cases h

/-! ### The round trip (R266) -/

/-- Under M1 a channel voice event comes back as DEC_M1 gives it for the event's one message (R253). -/
theorem decUmp_encUmp_M1_of_chanVoice {e : Event} (hcat : catOf e = .chanVoice) (hin : inUmp .M1 e = true)
    (hplain : plainFields e = true) (p : Params) :
    ∃ ws, encUmp e .M1 = .ok ws ∧ decUmp p ws = .ok (eventOfMessage p.noteOnV0AsNoteOff e) := by
  obtain ⟨st, rest, hmsg, hst⟩ := m1Messages_of_chanVoice hcat hin hplain
  have hdec := decM1_of_m1Messages (p := p) hmsg fun h => by simp [hcat] at h
  exact ⟨_, (encUmp_M1_of_chanVoice hcat).trans (msgWords_of_message hmsg ..), decUmp_msgWord_voice hst hdec⟩

theorem decUmp_encUmp_of_system {e : Event} (hcat : catOf e = .systemCommon ∨ catOf e = .systemRealTime)
    (P : Protocol) (p : Params) : ∃ ws, encUmp e P = .ok ws ∧ decUmp p ws = .ok e := by
  obtain ⟨st, rest, hmsg, hst⟩ := m1Messages_of_system hcat
  have hdec := decM1_of_m1Messages (p := p) hmsg fun h => by simp [h] at hcat
  have hsame : eventOfMessage p.noteOnV0AsNoteOff e = e := by
    cases e with
    | noteOff | noteOn | notePressure | cc | pressure | pitchBend => rcases hcat with h | h <;> cases h
    | _ => rfl
  rw [hsame] at hdec
  exact ⟨_, (encUmp_of_system hcat P).trans (msgWords_of_message hmsg ..), decUmp_msgWord_system hst hdec⟩

/-- An event other than channel voice comes back the same, whatever the protocol. -/
theorem decUmp_encUmp_of_not_chanVoice {e : Event} (hcat : catOf e ≠ .chanVoice) (P : Protocol) {p : Params}
    (hok : p.registry.ok = true) (hw : e.wf p.registry = true) :
    ∃ ws, encUmp e P = .ok ws ∧ decUmp p ws = .ok e := by
  cases e with
  | timecodeQuarterFrame | songPositionPointer | songSelect | tuneRequest =>
    exact decUmp_encUmp_of_system (.inl rfl) P p
  | timingClock | start | stop | continue_ | activeSensing | systemReset =>
    exact decUmp_encUmp_of_system (.inr rfl) P p
  | sysEx7 id data g =>
    exact ⟨_, rfl, (decUmp_packets7 p g (body7_ne_nil id data)).trans (sysEx7FromBody_body7 hok hw data g)⟩
  | sysEx8 id data sid g =>
    exact ⟨_, rfl, (decUmp_packets8 p g sid (body8_ne_nil id data)).trans (sysEx8FromBody_body8 hok hw data sid g)⟩
  | noOp | jrClock | jrTimestamp => exact ⟨_, rfl, by simp [decUmp_mt0, decUtility]⟩
  | _ => exact absurd rfl hcat

@[simp] theorem field7_byte (v : U7) (f : U7 → Except Err Event) : field7 v.byte f = f v := by
  rw [field7, isStatus_byte, low7_byte]
  rfl

theorem decUmp_head4 {g op ch : U4} {a b : Byte} {w : Word} {e : Event} (p : Params)
    (h : decVoice2 (head4 g op ch a b) w = .ok e) : decUmp p [head4 g op ch a b, w] = .ok e :=
  (decUmp_mt4 (mtOf_packWord ..) w p).trans h

/-- Under M2 a channel voice event comes back at high resolution (R267). -/
theorem decUmp_encUmp_M2_of_chanVoice {e : Event} (hcat : catOf e = .chanVoice) (p : Params) :
    ∃ ws, encUmp e .M2 = .ok ws ∧ decUmp p ws = .ok (hiEvent e) := by
  cases e with
  | noteOff | noteOn =>
    exact ⟨_, rfl, decUmp_head4 p (by simp [head4, decVoice2, decNoteOff, decNoteOn, hiEvent])⟩
  | notePressure | cc | notePitchBend =>
    exact ⟨_, rfl, decUmp_head4 p (by simp [head4, decVoice2, decNotePressure, decCc, decNotePitchBend, hiEvent])⟩
  | pressure | pitchBend =>
    exact ⟨_, rfl, decUmp_head4 p (by simp [head4, decVoice2, decPressure, decPitchBend, hiEvent])⟩
  | programChange _ bank =>
    rcases bank with _ | ⟨m, l⟩ <;>
      exact ⟨_, rfl, decUmp_head4 p (by simp [head4, decVoice2, decProgramChange, hiEvent])⟩
  | noteCC _ controller =>
    cases controller <;> exact ⟨_, rfl, decUmp_head4 p (by simp [head4, decVoice2, decNoteCC, hiEvent])⟩
  | _ => cases hcat

/-- The high-resolution form of an event is equal to it in the sense of the round-trip laws (R27). -/
theorem simEvent_hiEvent (e : Event) : simEvent (hiEvent e) e = true := by
  cases e <;> exact beq_self_eq_true _

/-- Settles O44: a channel voice event comes back at the resolution of its protocol, which is `~` the event, and every
other event comes back the same. -/
theorem umpRoundTrip : Obligations.UmpRoundTrip := by
  intro e P s hw hrep hok hv0
  obtain ⟨ws, e', henc, hdec, hsim⟩ :
      ∃ ws e', encUmp e P = .ok ws ∧ decUmp s.params ws = .ok e' ∧ simEvent e' e = true := by
    by_cases hcat : catOf e = .chanVoice
    · cases P with
      | M1 =>
        simp only [representableUmp, Bool.and_eq_true, Bool.or_eq_true] at hrep
        obtain ⟨hin, hM2 | ⟨hplain, hexact⟩⟩ := hrep
        · cases hM2
        · obtain ⟨ws, henc, hdec⟩ := decUmp_encUmp_M1_of_chanVoice hcat hin hplain s.params
          exact ⟨ws, _, henc, hdec, hv0 rfl ▸ simEvent_eventOfMessage hplain hexact⟩
      | M2 =>
        obtain ⟨ws, henc, hdec⟩ := decUmp_encUmp_M2_of_chanVoice hcat s.params
        exact ⟨ws, _, henc, hdec, simEvent_hiEvent e⟩
    · obtain ⟨ws, henc, hdec⟩ := decUmp_encUmp_of_not_chanVoice hcat P hok hw
      exact ⟨ws, e, henc, hdec, beq_self_eq_true _⟩
  exact ⟨ws, e', exec_encUmp_of_wf hw henc, exec_decUmp_of_eq hdec, hsim⟩

end Sys2Proof.Machine
end

section
/-! PROOFS. The UMP forms that are refused as `Malformed` (spec 42_ump_codec.md, R269): one lemma for each rule that
raises the error, and then the forms. -/

namespace Sys2Proof.Machine

/-- An error of kind `Malformed`, whatever its reason (R401). -/
def IsMalformed (e : Err) : Prop := ∃ tag, e = .malformed tag

/-- The decoding ends with an error of kind `Malformed`. -/
def FailsMalformed (x : Except Err Event) : Prop := ∃ tag, x = .error (.malformed tag)

/-! ### Packets (R250, R264, R265) -/

theorem decSysEx7_of_length {ws : List Word} (h : ws.length % 2 ≠ 0) (r : Registry) :
    decSysEx7 r ws = .error (.malformed .length) := by
  have hpairs : pairs ws = none := by
    cases hps : pairs ws with
    | none => rfl
    | some ps => exact absurd (pairs_length hps ▸ Nat.mul_mod_right 2 _) h
  rw [decSysEx7, hpairs]

theorem decSysEx8_of_length {ws : List Word} (h : ws.length % 4 ≠ 0) (r : Registry) :
    decSysEx8 r ws = .error (.malformed .length) := by
  have hquads : quads ws = none := by
    cases hps : quads ws with
    | none => rfl
    | some ps => exact absurd (quads_length hps ▸ Nat.mul_mod_right 4 _) h
  rw [decSysEx8, hquads]

/-- `unpackAll_error` by the place of the packet that fails. -/
theorem unpackAll_error_at {α β : Type} {unpack : α → Except Err β} {E : Err → Prop} {ps : List α} {j : Nat} {x : α}
    (hx : ps[j]? = some x) (hpre : ∀ i a, i < j → ps[i]? = some a → ∀ e, unpack a = .error e → E e)
    (hE : ∃ e, unpack x = .error e ∧ E e) : ∃ e, unpackAll unpack ps = .error e ∧ E e := by
  obtain ⟨hj, rfl⟩ := List.getElem?_eq_some_iff.mp hx
  have hpre' : ∀ a ∈ ps.take j, ∀ e, unpack a = .error e → E e := by
    intro a ha
    obtain ⟨i, hi, rfl⟩ := List.mem_take_iff_getElem.mp ha
    exact hpre i _ (by omega) (List.getElem?_eq_getElem (by omega))
  have h := unpackAll_error (post := ps.drop (j + 1)) hpre' hE
  rwa [List.getElem_cons_drop, List.take_append_drop] at h

theorem decSysEx7_of_packet {ws : List Word} {j : Nat} {x : Word} (hx : ws[2 * j]? = some x)
    (hbad : 0x3 < (stOf x).toNat ∨ 6 < (chOf x).toNat) (r : Registry) : FailsMalformed (decSysEx7 r ws) := by
  cases hps : pairs ws with
  | none => exact ⟨_, by rw [decSysEx7, hps]⟩
  | some ps =>
    rw [pairs_getElem? hps, Option.map_eq_some_iff] at hx
    obtain ⟨p, hp, rfl⟩ := hx
    obtain ⟨e, he, tag, rfl⟩ := unpackAll_error_at (unpack := unpack7) (E := IsMalformed) hp
      (fun _ _ _ _ _ => unpack7_error) ⟨_, unpack7_packet hbad, _, rfl⟩
    exact ⟨tag, by simp only [decSysEx7, hps, he]⟩

theorem decSysEx8_of_packet {ws : List Word} {j : Nat} {x : Word} (hx : ws[4 * j]? = some x)
    (hpre : ∀ i y, i < j → ws[4 * i]? = some y → stOf y ≠ 0x8 ∧ stOf y ≠ 0x9) (h8 : stOf x ≠ 0x8) (h9 : stOf x ≠ 0x9)
    (hbad : 0x3 < (stOf x).toNat ∨ (chOf x).toNat = 0 ∨ 14 < (chOf x).toNat) (r : Registry) :
    FailsMalformed (decSysEx8 r ws) := by
  cases hps : quads ws with
  | none => exact ⟨_, by rw [decSysEx8, hps]⟩
  | some ps =>
    simp only [quads_getElem? hps, Option.map_eq_some_iff] at hx hpre
    obtain ⟨p, hp, rfl⟩ := hx
    have hfirst : ∀ i a, i < j → ps[i]? = some a → ∀ e, unpack8 a = .error e → IsMalformed e := by
      intro i a hi ha e
      obtain ⟨hi8, hi9⟩ := hpre i a.1 hi ⟨a, ha, rfl⟩
      exact unpack8_error hi8 hi9
    obtain ⟨e, he, tag, rfl⟩ := unpackAll_error_at hp hfirst ⟨_, unpack8_packet h8 h9 hbad, _, rfl⟩
    exact ⟨tag, by simp only [decSysEx8, hps, he]⟩

/-! ### Messages of one packet (R251 to R254) -/

theorem decUtility_of_undefined {st : U4} (h : 0x3 ≤ st.toNat) (v : U16) (g : U4) :
    decUtility st v g = .error (.malformed .status) := by
  unfold decUtility
  split
  · omega
  · omega
  · omega
  · rfl

theorem decSystem_of_undefined {b : Byte}
    (h : b ∉ ([0xF1, 0xF2, 0xF3, 0xF6, 0xF8, 0xFA, 0xFB, 0xFC, 0xFE, 0xFF] : List Byte)) (d1 d2 : Byte) (g : U4) :
    decSystem b d1 d2 g = .error (.malformed .status) := by
  have hs : isMt1Status b = false := by simpa [isMt1Status, and_assoc] using h
  rw [decSystem, hs]
  rfl

theorem decVoice1_of_undefined {w : Word} (h : (stOf w).toNat < 0x8 ∨ stOf w = 0xF) (v0off : Bool) (d1 d2 : Byte)
    (g : U4) : decVoice1 v0off (byte1 w) d1 d2 g = .error (.malformed .status) := by
  have hnib : nibble (byte1 w) < 0x8 ∨ nibble (byte1 w) = 0xF := by
    rw [byte1_eq_chanStatus, nibble_chanStatus]
    exact h.imp_right (congrArg BitVec.toNat)
  rw [decVoice1, if_pos hnib]

theorem decVoice2_of_reserved {w : Word} (h : stOf w = 0x7) (w1 : Word) :
    decVoice2 w w1 = .error (.malformed .status) := by
  unfold decVoice2
  rw [h]
  rfl

/-- A message type of one-word messages: with more words the message is `Malformed` by its length (R250). -/
theorem decUmp_failsMalformed_of_one {w : Word} {p : Params} (hmt : mtOf w ∈ ([0x0, 0x1, 0x2] : List U4))
    (h : FailsMalformed (decUmp p [w])) (ws : List Word) : FailsMalformed (decUmp p (w :: ws)) := by
  have hwords : ∀ mt ∈ ([0x0, 0x1, 0x2] : List U4), mt ∈ ([0x0, 0x1, 0x2, 0x4] : List U4) ∧ wordsOf mt = 1 := by decide
  obtain ⟨hmem, hone⟩ := hwords _ hmt
  cases ws with
  | nil => exact h
  | cons w1 ws => exact ⟨_, decUmp_length hmem (by simp [hone]) p⟩

/-- The two-word messages of MT 0x4, likewise. -/
theorem decUmp_failsMalformed_of_two {w : Word} {p : Params} (hmt : mtOf w = 0x4)
    (h : ∀ w1, FailsMalformed (decVoice2 w w1)) (ws : List Word) : FailsMalformed (decUmp p (w :: ws)) := by
  have htwo : wordsOf (mtOf w) = 2 := by rw [hmt]; rfl
  rcases ws with _ | ⟨w1, _ | ⟨w2, ws⟩⟩
  · exact ⟨_, decUmp_length (by simp [hmt]) (by simp [htwo]) p⟩
  · exact decUmp_mt4 hmt w1 p ▸ h w1
  · exact ⟨_, decUmp_length (by simp [hmt]) (by simp [htwo]) p⟩

/-- A number of words that no number of packets gives (R250). -/
theorem decUmp_failsMalformed_of_mod {w : Word} {ws : List Word} (hmt : (mtOf w).toNat ≤ 0x5)
    (hlen : (w :: ws).length % wordsOf (mtOf w) ≠ 0) (p : Params) : FailsMalformed (decUmp p (w :: ws)) := by
  have htypes : ∀ mt : U4, mt.toNat ≤ 0x5 → mt = 0x3 ∨ mt = 0x5 ∨ mt ∈ ([0x0, 0x1, 0x2, 0x4] : List U4) := by decide
  rcases htypes _ hmt with h3 | h5 | hother
  · rw [h3] at hlen
    exact ⟨_, (decUmp_mt3 h3 ws p).trans (decSysEx7_of_length hlen _)⟩
  · rw [h5] at hlen
    exact ⟨_, (decUmp_mt5 h5 ws p).trans (decSysEx8_of_length hlen _)⟩
  · exact ⟨_, decUmp_length hother (fun h => hlen (h ▸ Nat.mod_self _)) p⟩

/-- Settles O35, form by form: a message of one packet fails by its length or by its status, and a SysEx message by its
length or by the packet named, or by an earlier one that is `Malformed` too. -/
theorem malformedUmpForms : Obligations.MalformedUmpForms := by
  intro s w ws h
  suffices hfails : FailsMalformed (decUmp s.params (w :: ws)) by
    obtain ⟨tag, htag⟩ := hfails
    exact ⟨tag, exec_decUmp_of_eq htag⟩
  rcases h with hmt | ⟨hmt, hst⟩ | ⟨hmt, hst⟩ | ⟨hmt, hst⟩ | ⟨hmt, j, x, hx, hbad⟩ | ⟨hmt, hop⟩
    | ⟨hmt, j, x, hx, hpre, hbad⟩ | ⟨hmt, hlen⟩ | ⟨hmt, hlen⟩
  · exact ⟨_, decUmp_reserved hmt ws _⟩
  · exact decUmp_failsMalformed_of_one (by simp [hmt])
      ⟨_, (decUmp_mt0 hmt _).trans (decUtility_of_undefined hst _ _)⟩ ws
  · exact decUmp_failsMalformed_of_one (by simp [hmt])
      ⟨_, (decUmp_mt1 hmt _).trans (decSystem_of_undefined hst _ _ _)⟩ ws
  · exact decUmp_failsMalformed_of_one (by simp [hmt])
      ⟨_, (decUmp_mt2 hmt _).trans (decVoice1_of_undefined hst _ _ _ _)⟩ ws
  · rw [decUmp_mt3 hmt]
    exact decSysEx7_of_packet hx hbad _
  · exact decUmp_failsMalformed_of_two hmt (fun w1 => ⟨_, decVoice2_of_reserved hop w1⟩) ws
  · have hnot : ∀ st ch : U4, (0x4 ≤ st.toNat ∧ st.toNat ≤ 0x7 ∨ 0xA ≤ st.toNat
        ∨ st ≠ 0x8 ∧ st ≠ 0x9 ∧ (ch = 0 ∨ ch = 15)) →
        st ≠ 0x8 ∧ st ≠ 0x9 ∧ (0x3 < st.toNat ∨ ch.toNat = 0 ∨ 14 < ch.toNat) := by decide
    obtain ⟨h8, h9, hpacket⟩ := hnot _ _ hbad
    rw [decUmp_mt5 hmt]
    exact decSysEx8_of_packet hx hpre h8 h9 hpacket _
  · exact decUmp_failsMalformed_of_mod hmt hlen _
  · exact ⟨_, decUmp_length hmt hlen _⟩

end Sys2Proof.Machine
end

section
/-! PROOFS. SYSEX_ID on the bytes of an identifier (spec 43_sysex.md, R290, R298): each width's resolution finds the
identifier at the head of the bytes and its length, whatever follows. -/

namespace Sys2Proof.Machine

/-- Data bytes at width 7: the check of R290 passes and resolve7 decides the outcome. -/
theorem exec_sysexId_width7 (body : List U7) (s : State) :
    exec (.sysexId (body.map U7.byte) 7) s
      = .next (s.ended (resultOr (fun a => .sysexId a.1 a.2) (resolve7 s.params.registry body))) := by
  rw [exec_sysexId, resolveId, asData_map_byte]
  rfl

/-- At width 8 any bytes may follow, and resolve8 decides the outcome (R290). -/
theorem exec_sysexId_width8 (body : List Byte) (s : State) :
    exec (.sysexId body 8) s
      = .next (s.ended (resultOr (fun a => .sysexId a.1 a.2) (resolve8 s.params.registry body))) :=
  exec_sysexId body 8 s

/-- Settles O46, law by law of R298: SYSEX_ID by the resolution of an identifier's own bytes at its width, and the
events by the same resolution of their bodies. -/
theorem sysExIdResolvesItsOwnBytes : Obligations.SysExIdResolvesItsOwnBytes := by
  intro s id hok hid
  refine ⟨fun rest => ?_, fun rest => ?_, sysEx7FromBody_body7 hok hid, sysEx8FromBody_body8 hok hid⟩
  · rw [exec_sysexId_width7, resolve7_idBytes7 hok hid, resultOr_ok]
  · rw [exec_sysexId_width8, resolve8_idBytes8 hok hid, resultOr_ok]

end Sys2Proof.Machine
end

section
/-! PROOFS. Chunk boundaries (spec 44_stream_parser.md, R336, R339). FEED is a left fold over its bytes, so FEED of the
first chunk leaves the context from which FEED of the later chunks goes on. -/

namespace Sys2Proof.Machine

/-- The outcomes of one FEED for each chunk: the items of each, with the timestamp of its own FEED (R81). -/
def chunkOutcomes (chunks : List (U64 × List Byte)) (iss : List (List Item)) : List Result :=
  List.zipWith (fun k its => Result.items (its.map fun it => (k.1, it))) chunks iss

theorem exec_feed_of_feedBytes {s : State} {c : Nat} {S S' : Ctx} {bs : List Byte} {its : List Item}
    (hS : s.ctxs[c]? = some S) (h : feedBytes s.params (s.params.parserGroup c) bs S = (its, S')) (t : U64) :
    exec (.feed c t bs) s = .next (s.emitted c S' t its) := by
  rw [exec_feed, feed_some hS, h]

/-- After an operation on context `c` the entry of `c` is what the operation left. -/
theorem State.emitted_getElem?_self {s : State} {c : Nat} {S : Ctx} (hS : s.ctxs[c]? = some S) (S' : Ctx) (t : U64)
    (its : List Item) : (s.emitted c S' t its).ctxs[c]? = some S' := by
  rw [State.emitted_ctxs, List.getElem?_set_self (List.getElem?_eq_some_iff.mp hS).1]

/-- One FEED for each chunk against one run over the bytes of all of them (R336), by induction on the chunks. -/
theorem execAll_feeds {c : Nat} (chunks : List (U64 × List Byte)) {s : State} {S : Ctx} (hS : s.ctxs[c]? = some S) :
    ∃ (S' : Ctx) (iss : List (List Item)), iss.length = chunks.length
      ∧ execAll (chunks.map fun k => .feed c k.1 k.2) s
        = .next { s with ctxs := s.ctxs.set c S', outcomes := s.outcomes ++ chunkOutcomes chunks iss }
      ∧ feedBytes s.params (s.params.parserGroup c) (chunks.map Prod.snd).flatten S = (iss.flatten, S') := by
  induction chunks generalizing s S with
  | nil =>
    obtain ⟨hc, rfl⟩ := List.getElem?_eq_some_iff.mp hS
    exact ⟨_, [], rfl, by simp [execAll, chunkOutcomes], rfl⟩
  | cons k ks ih =>
    obtain ⟨t, bs⟩ := k
    obtain ⟨its, S₁, hfirst⟩ : ∃ its S₁, feedBytes s.params (s.params.parserGroup c) bs S = (its, S₁) := ⟨_, _, rfl⟩
    obtain ⟨S', iss, hlen, hexec, hrest⟩ := ih (State.emitted_getElem?_self hS S₁ t its)
    refine ⟨S', its :: iss, congrArg Nat.succ hlen, ?feeds, ?run⟩
    case feeds =>
      simp only [List.map_cons, execAll, exec_feed_of_feedBytes hS hfirst, hexec]
      simp [State.emitted, chunkOutcomes]
    case run =>
      rw [List.map_cons, List.flatten_cons, feedBytes_append, hfirst]
      simp only [State.emitted_params] at hrest
      rw [hrest, List.flatten_cons]

/-- Settles O47: the runs agree from the context's record, and an empty run is the record itself. -/
theorem chunkBoundariesDoNotMatter : Obligations.ChunkBoundariesDoNotMatter := by
  constructor
  · intro c t chunks s hc
    obtain ⟨S, hS⟩ := State.lt_nCtx_iff.mp hc
    obtain ⟨S', iss, hlen, hexec, hrun⟩ := execAll_feeds chunks hS
    exact ⟨S', iss, hlen, hexec, exec_feed_of_feedBytes hS hrun t⟩
  · intro c t s hc
    obtain ⟨S, hS⟩ := State.lt_nCtx_iff.mp hc
    rw [exec_feed_of_feedBytes hS (feedBytes_nil ..), State.emitted_self hS]
    rfl

end Sys2Proof.Machine
end

section
/-! PROOFS. Messages that carry their own status byte (spec 44_stream_parser.md, R338, R340). FEED of a message that
DEC_M1 accepts emits what the message cuts short and then the event of DEC_M1. What ENC_M1 makes of an event is such a
message, so the parser agrees with the encoder by the round trip of DEC_M1 (R215). -/

namespace Sys2Proof.Machine

/-! ### Resynchronisation (R338) -/

/-- A FEED whose items are known ends with them and with some record of its context. -/
theorem exec_feed_of_items {s : State} {c : Nat} {S : Ctx} {bs : List Byte} {its : List Item}
    (hS : s.ctxs[c]? = some S) (h : (feedBytes s.params (s.params.parserGroup c) bs S).1 = its) (t : U64) :
    ∃ S', exec (.feed c t bs) s = .next (s.emitted c S' t its) :=
  ⟨_, exec_feed_of_feedBytes hS (Prod.ext h rfl) t⟩

/-- Below the real-time statuses the parser and DEC_M1 build the same event (R200, R334). -/
theorem eventOf_eq_messageEvent {b : Byte} (hb : b.toNat ≤ 0xF6) (p : Params) (g : U4) (d : List U7) :
    eventOf p g b d = messageEvent p.noteOnV0AsNoteOff b d g := by
  simp only [eventOf, messageEvent, if_pos hb]

/-- A complete channel voice or System Common message, whatever the context holds. -/
theorem feedBytes_message_items {p : Params} {g : U4} {b : Byte} {d : List U7} {S : Ctx} {e : Event} {max : Option Nat}
    (hS : S.Inv max) (hb : isChanStatus b = true ∨ b ∈ ([0xF1, 0xF2, 0xF3, 0xF6] : List Byte)) (hc : isComplete b d)
    (he : messageEvent p.noteOnV0AsNoteOff b d g = some e) :
    (feedBytes p g (b :: d.map U7.byte) S).1 = cutShort S ++ [.ev e] := by
  have hle : ∀ b : Byte, isChanStatus b = true ∨ b ∈ ([0xF1, 0xF2, 0xF3, 0xF6] : List Byte) → b.toNat ≤ 0xF6 := by
    decide
  rw [← eventOf_eq_messageEvent (hle b hb)] at he
  have hkind : isChanStatus b = true ∨ (b = 0xF1 ∨ b = 0xF2 ∨ b = 0xF3) ∨ b = 0xF6 := by
    simpa [or_assoc] using hb
  rcases hkind with hchan | hdata | rfl
  · rw [feedBytes_chan hS hchan hc he]
  · rw [feedBytes_common hS hdata hc he]
  · obtain rfl : d = [] := List.length_eq_zero_iff.mp (Option.some.inj hc).symm
    cases he
    simp [feedBytes_cons, parserStep, stepCommon, evItems, commonEvent]

theorem keptBody_of_withinMax {max : Option Nat} {body : List U7} (h : withinMax max body.length) :
    keptBody max body = body := by
  cases max with
  | none => rfl
  | some m => exact List.take_of_length_le (h m rfl)

theorem bodyDropped_of_withinMax {max : Option Nat} {body : List U7} (h : withinMax max body.length) :
    bodyDropped max body = false := by
  cases max with
  | none => rfl
  | some m => exact decide_eq_false (h m rfl).not_gt

/-- `F0` opens a SysEx, whatever the context holds (R326). -/
theorem parserStep_sysExStart {max : Option Nat} {S : Ctx} (hS : S.Inv max) (p : Params) (g : U4) :
    parserStep p g 0xF0 S = (cutShort S, inSysEx S.rs [] false) := by
  change stepSysExStart S = _
  rw [stepSysExStart, close_items, close_eq_quiet hS]
  rfl

/-- `F7` gives the event of an accumulator that holds the whole body (R327). -/
theorem parserStep_eox_of_body {p : Params} {g : U4} {body : List U7} {e : Event}
    (he : sysEx7FromBody p.registry body g = .ok e) (rs : Option Byte) :
    parserStep p g 0xF7 (inSysEx rs body false) = ([.ev e], quiet rs) := by
  change stepEox p g (inSysEx rs body false) = _
  have hitem : sysExItem p g (inSysEx rs body false) = .ev e := by
    simp [sysExItem, inSysEx, Ctx.reset, he]
  rw [stepEox, hitem]
  rfl

/-- A SysEx that the accumulator holds, whatever the context holds. -/
theorem feedBytes_sysEx {p : Params} {g : U4} {body : List U7} {S : Ctx} {e : Event} {max : Option Nat}
    (hS : S.Inv max) (hfit : withinMax p.sysexMax body.length) (he : sysEx7FromBody p.registry body g = .ok e) :
    feedBytes p g (0xF0 :: (body.map U7.byte ++ [0xF7])) S = (cutShort S ++ [.ev e], quiet S.rs) := by
  rw [feedBytes_cons, parserStep_sysExStart hS, feedBytes_append, feedBytes_body _ _ _ _ _ _ fun _ _ => Nat.zero_le _]
  simp only [List.nil_append, keptBody_of_withinMax hfit, bodyDropped_of_withinMax hfit, Bool.or_false, feedBytes_cons,
    parserStep_eox_of_body he, feedBytes_nil, List.append_nil]

theorem eventOr_eq_event {x : Except Err Event} {e : Event} : eventOr x = .event e ↔ x = .ok e := by
  cases x <;> simp [eventOr]

/-- Settles O55: a complete message has an event, which both DEC_M1 and the parser build; DEC_M1 of a SysEx resolves the
body that the accumulator holds at `F7`. -/
theorem messageWithItsStatusIsDecodedExactly : Obligations.MessageWithItsStatusIsDecodedExactly := by
  intro c t s S hS hinv
  refine ⟨cutShort_length S, ?message, ?sysEx⟩
  case message =>
    intro b d hb hc
    have hdefined : ∀ b : Byte, isChanStatus b = true ∨ b ∈ ([0xF1, 0xF2, 0xF3, 0xF6] : List Byte) →
        b ≠ 0xF9 ∧ b ≠ 0xFD := by decide
    obtain ⟨h9, hd⟩ := hdefined b hb
    obtain ⟨e, he⟩ := messageEvent_isSome hc h9 hd s.params.noteOnV0AsNoteOff (s.params.parserGroup c)
    obtain ⟨S', hfeed⟩ := exec_feed_of_items hS (feedBytes_message_items hinv hb hc he) t
    exact ⟨e, S', exec_decM1_of_eq (decM1_complete hc h9 hd he), hfeed⟩
  case sysEx =>
    intro body e hfit hdec
    rw [exec_decM1, decM1_sysEx, next_ended_inj, eventOr_eq_event] at hdec
    exact ⟨_, exec_feed_of_feedBytes hS (feedBytes_sysEx hinv hfit hdec) t⟩

/-! ### Agreement with the encoder (R340) -/

theorem isChanStatus_chanStatus {nib : U4} (ch : U4) (h : 0x8 ≤ nib.toNat ∧ nib.toNat ≤ 0xE) :
    isChanStatus (chanStatus nib ch) = true := by
  have := ch.isLt
  rw [isChanStatus_iff, toNat_chanStatus]
  omega

/-- The statuses of the messages that DEC_M1 decodes, other than SysEx: those R338 speaks of, and real-time. -/
theorem status_cases {b : Byte} {n : Nat} (h : need b = some n) (hr : isReservedM1 b = false) :
    (isChanStatus b = true ∨ b ∈ ([0xF1, 0xF2, 0xF3, 0xF6] : List Byte))
      ∨ b ∈ ([0xF8, 0xFA, 0xFB, 0xFC, 0xFE, 0xFF] : List Byte) := by
  rcases need_cases h with ⟨nib, ch, h8, hE, rfl⟩ | hsystem
  · exact .inl (.inl (isChanStatus_chanStatus ch ⟨h8, hE⟩))
  · have h9 : b ≠ 0xF9 := by rintro rfl; cases hr
    have hD : b ≠ 0xFD := by rintro rfl; cases hr
    simp only [List.mem_cons, List.not_mem_nil, or_false]
    tauto

/-- A System Real-Time byte is the whole of its message, and emits its event in every context (R329). -/
theorem feedBytes_realTime {p : Params} {g : U4} {b : Byte} {d : List U7} {e : Event}
    (hb : b ∈ ([0xF8, 0xFA, 0xFB, 0xFC, 0xFE, 0xFF] : List Byte)) (hc : isComplete b d)
    (he : messageEvent p.noteOnV0AsNoteOff b d g = some e) (S : Ctx) :
    feedBytes p g (b :: d.map U7.byte) S = ([.ev e], S) := by
  have hbyte : ∀ b ∈ ([0xF8, 0xFA, 0xFB, 0xFC, 0xFE, 0xFF] : List Byte), need b = some 0 ∧ 0xF6 < b.toNat := by decide
  obtain ⟨hneed, hlt⟩ := hbyte b hb
  obtain rfl : d = [] := List.length_eq_zero_iff.mp (Option.some.inj (hc.symm.trans hneed))
  have hevent : realTimeEvent b g = some e := by
    rwa [messageEvent, if_neg (by omega), if_neg hlt.not_ge] at he
  have hstep : parserStep p g b S = stepRealTime g b S := if_pos (by simpa using hb)
  rw [List.map_nil, feedBytes_cons, hstep, stepRealTime, hevent]
  rfl

/-- In a context with nothing partial, a message other than SysEx that DEC_M1 accepts emits the event DEC_M1 gives. -/
theorem feedBytes_items_of_decM1 {p : Params} {g : U4} {b : Byte} {rest : List Byte} {S : Ctx} {e : Event}
    {max : Option Nat} (hS : S.Inv max) (hcut : cutShort S = []) (h0 : b ≠ 0xF0)
    (hdec : decM1 p (b :: rest) g = .ok e) : (feedBytes p g (b :: rest) S).1 = [.ev e] := by
  obtain ⟨d, rfl, -, hr, hc, he⟩ := message_of_decM1_ok hdec h0
  rcases status_cases hc hr with hb | hb
  · rw [feedBytes_message_items hS hb hc he, hcut, List.nil_append]
  · rw [feedBytes_realTime hb hc he]

theorem inUmp_M1_of_inMidi1 {e : Event} (h : inMidi1 e = true) : inUmp .M1 e = true := by
  cases e with
  | notePitchBend | noteCC => cases h
  | _ => rfl

theorem catOf_ne_utility_of_inMidi1 {e : Event} (h : inMidi1 e = true) : catOf e ≠ .utility := by
  cases e with
  | noOp | jrClock | jrTimestamp => cases h
  | _ => exact nofun

/-- An event that MIDI 1.0 carries, no SysEx and with no bank, is one message, and its first byte is not `F0`. -/
theorem m1Messages_of_not_sysEx {e : Event} (hcat : catOf e ≠ .sysEx) (hin : inMidi1 e = true)
    (hplain : plainFields e = true) : ∃ b rest, m1Messages e = .ok [b :: rest] ∧ b ≠ 0xF0 := by
  cases hc : catOf e with
  | chanVoice =>
    obtain ⟨b, rest, hmsg, hb⟩ := m1Messages_of_chanVoice hc (inUmp_M1_of_inMidi1 hin) hplain
    exact ⟨b, rest, hmsg, by rintro rfl; exact absurd hb (by decide)⟩
  | systemCommon | systemRealTime =>
    obtain ⟨b, rest, hmsg, hb⟩ := m1Messages_of_system (e := e) (by simp [hc])
    exact ⟨b, rest, hmsg, by rintro rfl; exact absurd hb (by decide)⟩
  | sysEx => exact absurd hc hcat
  | utility => exact absurd hc (catOf_ne_utility_of_inMidi1 hin)

/-- FEED of the one message of an event, in a context with nothing partial, emits the event that DEC_M1 gives for it. -/
theorem feedBytes_items_of_m1Messages {p : Params} {e : Event} {S : Ctx} (hS : S.Inv p.sysexMax)
    (hcut : cutShort S = []) (hok : p.registry.ok = true) (hw : e.wf p.registry = true) (hin : inMidi1 e = true)
    (hplain : plainFields e = true)
    (hfit : ∀ id data g, e = .sysEx7 id data g → withinMax p.sysexMax (body7 id data).length) :
    ∃ bs, m1Messages e = .ok [bs]
      ∧ (feedBytes p (groupOf e) bs S).1 = [.ev (eventOfMessage p.noteOnV0AsNoteOff e)] := by
  by_cases hcat : catOf e = .sysEx
  · cases e with
    | sysEx7 id data g =>
      exact ⟨_, rfl, by rw [feedBytes_sysEx hS (hfit id data g rfl) (sysEx7FromBody_body7 hok hw data _), hcut]; rfl⟩
    | sysEx8 => cases hin
    | _ => cases hcat
  · obtain ⟨b, rest, hmsg, h0⟩ := m1Messages_of_not_sysEx hcat hin hplain
    exact ⟨_, hmsg, feedBytes_items_of_decM1 hS hcut h0 (decM1_of_m1Messages hmsg fun h => absurd h hcat)⟩

/-- A channel voice message with its status, whatever the context holds (R335, R334). -/
theorem feedBytes_chanMsg {p : Params} {nib ch g : U4} {d : List U7} {S : Ctx} {e : Event} {max : Option Nat}
    (hS : S.Inv max) (hnib : 0x8 ≤ nib.toNat ∧ nib.toNat ≤ 0xE)
    (hlen : (if nib.toNat = 0xC ∨ nib.toNat = 0xD then 1 else 2) = d.length)
    (he : chanEvent p.noteOnV0AsNoteOff (chanStatus nib ch) d g = some e) :
    feedBytes p g (chanMsg nib ch d) S = (cutShort S ++ [.ev e], quiet (some (chanStatus nib ch))) := by
  have hchan := isChanStatus_chanStatus ch hnib
  refine feedBytes_chan hS hchan ((need_chanStatus ch hnib).trans (congrArg some hlen)) ?_
  rw [eventOf, if_pos (isChanStatus_iff.mp hchan).2, he]

/-- The three messages of a banked program change (R185), each with its event. -/
theorem feedBytes_bankedProgramChange (params : Params) {S : Ctx} {max : Option Nat} (hS : S.Inv max)
    (hcut : cutShort S = []) (p m l : U7) (ch g : U4) :
    (feedBytes params g ([chanMsg 0xB ch [0x00, m], chanMsg 0xB ch [0x20, l], chanMsg 0xC ch [p]].flatten) S).1
      = [.ev (.cc 0 (.m1 m) ch g), .ev (.cc 32 (.m1 l) ch g), .ev (.programChange p none ch g)] := by
  have hquiet : (quiet (some (chanStatus 0xB ch))).Inv max :=
    quiet_inv (fun b hb => Option.some.inj hb ▸ isChanStatus_chanStatus ch (by decide)) max
  have hcc : ∀ n v : U7, chanEvent params.noteOnV0AsNoteOff (chanStatus 0xB ch) [n, v] g
      = some (.cc n (.m1 v) ch g) := by simp [chanEvent]
  have hprogram : chanEvent params.noteOnV0AsNoteOff (chanStatus 0xC ch) [p] g
      = some (.programChange p none ch g) := by simp [chanEvent]
  simp only [List.flatten_cons, List.flatten_nil, List.append_nil, feedBytes_append,
    feedBytes_chanMsg hS (by decide) rfl (hcc 0x00 m), feedBytes_chanMsg hquiet (by decide) rfl (hcc 0x20 l),
    feedBytes_chanMsg hquiet (by decide) rfl hprogram, hcut, cutShort_of_quiet (quiet_sx _) (quiet_pend _)]
  rfl

/-- Settles O56: DEC_M1 of an event's message is `~` the event, and the parser emits what DEC_M1 gives. -/
theorem parserAgreesWithEncoder : Obligations.ParserAgreesWithEncoder := by
  intro c t s S hS hinv hsx hpend hok hv0
  have hcut : cutShort S = [] := cutShort_of_quiet hsx hpend
  refine ⟨?representable, ?banked⟩
  case representable =>
    intro e hw hrep hgroup hfit
    simp only [representableM1, Bool.and_eq_true] at hrep
    obtain ⟨⟨hin, hplain⟩, hexact⟩ := hrep
    obtain ⟨bs, hmsg, hitems⟩ := feedBytes_items_of_m1Messages hinv hcut hok hw hin hplain hfit
    rw [hgroup, hv0] at hitems
    obtain ⟨S', hfeed⟩ := exec_feed_of_items hS hitems t
    exact ⟨bs, eventOfMessage false e, S', exec_encM1_of_wf hw (enc1_of_message hmsg), hfeed,
      simEvent_eventOfMessage hplain hexact⟩
  case banked =>
    rintro p m l ch g rfl
    obtain ⟨S', hfeed⟩ := exec_feed_of_items hS (feedBytes_bankedProgramChange s.params hinv hcut p m l ch _) t
    exact ⟨_, S', exec_encM1_of_wf (x := .ok _) rfl rfl, hfeed⟩

end Sys2Proof.Machine
end

section
/-! PROOFS. The event filter (R372, R373). Each operation of a filter is one condition on the category and type of an
event. Two filters give the same sublist when they keep the same events; that a type set counts only by its part inside
the category rests on `typeOf_mem_typesOf_catOf`. -/

namespace Sys2Proof.Machine

/-! ### The condition of each operation (R372) -/

@[simp] theorem keep_only (C : Category) (e : Event) : keep ⟨C, .only⟩ e = decide (catOf e = C) := by
  simp [keep, beq_eq_decide]

@[simp] theorem keep_onlyTypes (C : Category) (T : List EvType) (e : Event) :
    keep ⟨C, .onlyTypes T⟩ e = decide (catOf e = C ∧ typeOf e ∈ T) := by
  simp [keep, beq_eq_decide]

@[simp] theorem keep_keepTypes (C : Category) (T : List EvType) (e : Event) :
    keep ⟨C, .keepTypes T⟩ e = decide (catOf e ≠ C ∨ typeOf e ∈ T) := by
  simp [keep, bne, beq_eq_decide]

@[simp] theorem keep_drop (C : Category) (e : Event) : keep ⟨C, .drop⟩ e = decide (catOf e ≠ C) := by
  simp [keep, bne, beq_eq_decide]

@[simp] theorem keep_dropTypes (C : Category) (T : List EvType) (e : Event) :
    keep ⟨C, .dropTypes T⟩ e = decide (¬(catOf e = C ∧ typeOf e ∈ T)) := by
  simp [keep, beq_eq_decide]

/-! ### What FILTER answers -/

/-- FILTER of events in the domain. -/
theorem exec_filter_of_wf {es : List Event} {s : State} (hw : ∀ e ∈ es, e.wf s.params.registry = true) (f : Filter) :
    exec (.filter f es) s = .next (s.ended (.events (applyFilter f es))) := by
  rw [exec_filter, if_pos]
  simpa using hw

/-- FILTER of events in the domain ends with the events that satisfy the condition of its filter. -/
theorem exec_filter_of_keep {es : List Event} {s : State} (hw : ∀ e ∈ es, e.wf s.params.registry = true) {f : Filter}
    {p : Event → Bool} (hp : ∀ e, keep f e = p e) :
    exec (.filter f es) s = .next (s.ended (.events (es.filter p))) := by
  rw [exec_filter_of_wf hw, applyFilter, funext hp]

/-! ### Filters that keep the same events -/

theorem applyFilter_congr {f f' : Filter} (h : ∀ e, keep f e = keep f' e) (es : List Event) :
    applyFilter f es = applyFilter f' es :=
  List.filter_congr fun e _ => h e

theorem typeOf_mem_typesOf {C : Category} {e : Event} (h : catOf e = C) : typeOf e ∈ typesOf C :=
  h ▸ typeOf_mem_typesOf_catOf e

/-- The type of an event of category `C` is in a type set exactly if it is in the set's part inside `typesOf C`. -/
theorem typeOf_mem_filter_typesOf {C : Category} {e : Event} (h : catOf e = C) (T : List EvType) :
    typeOf e ∈ T ↔ typeOf e ∈ T.filter (· ∈ typesOf C) := by
  simp [typeOf_mem_typesOf h]

/-- Settles O58: each operation's condition, and type sets that agree on the types of the category. -/
theorem filterKeepsWhatItsOperationKeeps : Obligations.FilterKeepsWhatItsOperationKeeps := by
  intro s es C T hw
  refine ⟨exec_filter_of_keep hw (keep_only C), exec_filter_of_keep hw (keep_onlyTypes C T),
    exec_filter_of_keep hw (keep_keepTypes C T), exec_filter_of_keep hw (keep_drop C),
    exec_filter_of_keep hw (keep_dropTypes C T), applyFilter_congr (fun e => ?onlyTypes) es,
    applyFilter_congr (fun e => ?keepTypes) es, applyFilter_congr (fun e => ?dropTypes) es⟩
  case onlyTypes =>
    rw [keep_onlyTypes, keep_onlyTypes, decide_eq_decide]
    exact and_congr_right fun h => typeOf_mem_filter_typesOf h T
  case keepTypes =>
    rw [keep_keepTypes, keep_keepTypes, decide_eq_decide]
    exact or_congr_right' fun h => typeOf_mem_filter_typesOf (not_not.mp h) T
  case dropTypes =>
    rw [keep_dropTypes, keep_dropTypes, decide_eq_decide]
    exact not_congr (and_congr_right fun h => typeOf_mem_filter_typesOf h T)

/-! ### The laws (R373) -/

theorem keep_onlyTypes_typesOf (C : Category) (e : Event) : keep ⟨C, .onlyTypes (typesOf C)⟩ e = keep ⟨C, .only⟩ e := by
  rw [keep_onlyTypes, keep_only, decide_eq_decide]
  exact and_iff_left_of_imp typeOf_mem_typesOf

theorem keep_keepTypes_typesOf (C : Category) (e : Event) : keep ⟨C, .keepTypes (typesOf C)⟩ e = true := by
  rw [keep_keepTypes, decide_eq_true_iff]
  exact not_or_of_imp typeOf_mem_typesOf

theorem keep_drop_eq_not_only (C : Category) (e : Event) : keep ⟨C, .drop⟩ e = !keep ⟨C, .only⟩ e := by
  rw [keep_drop, keep_only, decide_not]

theorem keep_dropTypes_eq_not_onlyTypes (C : Category) (T : List EvType) (e : Event) :
    keep ⟨C, .dropTypes T⟩ e = !keep ⟨C, .onlyTypes T⟩ e := by
  rw [keep_dropTypes, keep_onlyTypes, decide_not]

theorem keep_dropTypes_typesOf (C : Category) (e : Event) : keep ⟨C, .dropTypes (typesOf C)⟩ e = keep ⟨C, .drop⟩ e := by
  rw [keep_dropTypes_eq_not_onlyTypes, keep_onlyTypes_typesOf, keep_drop_eq_not_only]

/-- `keepTypes` is `dropTypes` of the category's other types. -/
theorem keep_keepTypes_eq_dropTypes (C : Category) (T : List EvType) (e : Event) :
    keep ⟨C, .keepTypes T⟩ e = keep ⟨C, .dropTypes ((typesOf C).filter (· ∉ T))⟩ e := by
  rw [keep_keepTypes, keep_dropTypes, decide_eq_decide]
  by_cases hC : catOf e = C
  · simp [hC, typeOf_mem_typesOf hC]
  · simp [hC]

theorem applyFilter_applyFilter (f h : Filter) (es : List Event) :
    applyFilter f (applyFilter h es) = es.filter fun e => keep f e && keep h e :=
  List.filter_filter

theorem applyFilter_idem (f : Filter) (es : List Event) : applyFilter f (applyFilter f es) = applyFilter f es := by
  rw [applyFilter_applyFilter]
  exact List.filter_congr fun e _ => Bool.and_self ..

theorem applyFilter_comm (f h : Filter) (es : List Event) :
    applyFilter f (applyFilter h es) = applyFilter h (applyFilter f es) := by
  rw [applyFilter_applyFilter, applyFilter_applyFilter]
  exact List.filter_congr fun e _ => Bool.and_comm ..

/-- Settles O59, law by law of R373. -/
theorem filterLaws : Obligations.FilterLaws := fun _ C T f h e es es' =>
  ⟨fun hw => exec_filter_of_wf hw f,
    applyFilter_congr (keep_onlyTypes_typesOf C) es,
    List.filter_eq_self.mpr fun e _ => keep_keepTypes_typesOf C e,
    applyFilter_congr (keep_dropTypes_typesOf C) es,
    applyFilter_congr (keep_keepTypes_eq_dropTypes C T) es,
    keep_drop_eq_not_only C e,
    keep_dropTypes_eq_not_onlyTypes C T e,
    List.filter_append es es',
    applyFilter_idem f es,
    applyFilter_comm f h es⟩

end Sys2Proof.Machine
end

section
/-! PROOFS. Nothing the block is given stops it, and a failing operation has no effect (spec 60_exceptions.md, R403,
R407). Every instruction answers a next state, so every step does, whatever the frame; runs follow by induction
on the number of steps. What a failing instruction does is one case of all an instruction can do. -/

namespace Sys2Proof.Machine

/-! ### Nothing is fatal (R407) -/

/-- An instruction answers a next state, whether it names a context or none. -/
theorem exec_answers (i : Instr) (s : State) : ∃ t, exec i s = .next t := by
  cases hc : contextOf i with
  | none =>
    obtain ⟨r, hr⟩ := exec_pure s.params hc
    exact ⟨s.ended r, hr s rfl⟩
  | some c =>
    obtain ⟨f, hf⟩ := exec_eq_onCtx s.params hc
    exact ⟨s.onCtx c f, hf s rfl⟩

/-- A step answers a next state: with nothing at the port, with an instruction there, and with a frame that holds
none. -/
theorem step_answers (s : State) : ∃ t, step s = .next t := by
  unfold step
  split
  · exact ⟨s, rfl⟩
  · split
    · exact exec_answers _ _
    · exact ⟨_, rfl⟩

/-- A run of `n + 1` steps whose first step answers `t` is a run of `n` steps from `t`. -/
theorem run_succ_of_step {M : Host.Core} {n : Nat} {s t : M.State} (h : M.step s = .next t) :
    M.run (n + 1) s = M.run n t := by
  rw [Host.Core.run, h]

theorem core_run_answers (n : Nat) (s : State) : ∃ t, core.run n s = .next t := by
  induction n generalizing s with
  | zero => exact ⟨s, rfl⟩
  | succ n ih =>
    obtain ⟨u, hu⟩ := step_answers s
    obtain ⟨t, ht⟩ := ih u
    exact ⟨t, (run_succ_of_step (M := core) hu).trans ht⟩

/-- Settles O7: no instruction and no step can fault, and runs follow by induction on the number of steps. -/
theorem nothingIsFatal : Obligations.NothingIsFatal := ⟨exec_answers, core_run_answers⟩

/-! ### A failing operation has no effect (R403) -/

/-- An instruction that ends with an error changes nothing else, and names no context: one that writes its context
ends with nothing or with items. -/
theorem exec_error_effect {i : Instr} {s t : State} {e : Err} (h : exec i s = .next t)
    (ho : t.outcomes = s.outcomes ++ [.err e]) : t = s.ended (.err e) ∧ contextOf i = none := by
  rcases exec_effect h with ⟨r, rfl, hpure⟩ | ⟨c, S, S', r, -, -, hr, rfl⟩
  · obtain rfl : r = .err e := by simpa using ho
    exact ⟨rfl, hpure ⟨e, rfl⟩⟩
  · obtain rfl : r = .err e := by simpa using ho
    rcases hr with hdone | ⟨l, hitems⟩
    · cases hdone
    · cases hitems

/-- An instruction that names no context leaves every context as it was. -/
theorem exec_ctxs_of_contextOf_none {i : Instr} {s t : State} (h : exec i s = .next t) (hc : contextOf i = none) :
    t.ctxs = s.ctxs :=
  List.ext_getElem? fun k => exec_getElem?_ctxs_of_ne h (k := k) (by rw [hc]; exact nofun)

/-- Settles O13: by what an instruction that ends with an error can have done, and by the frame of the contexts an
instruction does not name. -/
theorem failedOperationHasNoEffect : Obligations.FailedOperationHasNoEffect :=
  ⟨fun _ _ _ _ h ho => (exec_error_effect h ho).1,
    fun _ _ _ => exec_ctxs_of_contextOf_none,
    fun _ _ _ _ h hc ho => hc (exec_error_effect h ho).2⟩

end Sys2Proof.Machine
end

section
/-! PROOFS. RESET of a context (R440): its record becomes the reset record of R42, silently; a context the block does not
have is refused (R406). -/

namespace Sys2Proof.Machine

/-- RESET of a context that exists. -/
theorem exec_reset_of_lt {c : Nat} {s : State} (h : c < s.nCtx) :
    exec (.reset c) s = .next { s with ctxs := s.ctxs.set c Ctx.reset, outcomes := s.outcomes ++ [.done] } := by
  rw [exec_reset, State.onCtx_some (List.getElem?_eq_getElem h)]

/-- RESET of a context that does not exist. -/
theorem exec_reset_of_le {c : Nat} {s : State} (h : s.nCtx ≤ c) :
    exec (.reset c) s = .next (s.ended .refused) := by
  rw [exec_reset, State.onCtx_none (State.getElem?_eq_none_of_le h)]

/-- Settles O18: one case for each side of `N_CTX`; the record written is R42's, field by field. -/
theorem resetClearsItsContext : Obligations.ResetClearsItsContext :=
  fun _ _ => ⟨exec_reset_of_lt, exec_reset_of_le⟩

end Sys2Proof.Machine
end

section
/-! PROOFS. Decode of encode (spec 30_encoding.md, R90, R95, R99 to R109). Each shape of frame that the encoder writes
reaches the row decoder of its format with its fields read back; the instruction is then the row of the fixed field. -/

namespace Sys2Proof

/-! ### Frames of one shape -/

theorem decode_mt1Frame (g : U4) (s a b : Byte) : decode (mt1Frame g s a b) = decodeMt1 (packStatus 0x1 g s a b) :=
  decodeUmp_mt1 (mtOf_packStatus ..)

theorem decode_mt2Frame (g nib ch : U4) (a b : Byte) :
    decode (mt2Frame g nib ch a b) = decodeMt2 (packWord 0x2 g nib ch a b) :=
  decodeUmp_mt2 (mtOf_packWord ..)

theorem decode_mt4Frame (g op ch : U4) (a b : Byte) (w1 : Word) :
    decode (mt4Frame g op ch a b w1) = decodeMt4 (packWord 0x4 g op ch a b) w1 :=
  decodeUmp_mt4 (mtOf_packWord ..) w1

theorem decode_sysEx7Words (st g n : U4) (b0 b1 : Byte) (w1 : Word) (rest : List Word) :
    decode (.ump (sysEx7Words st g n b0 b1 w1 rest)) = decodeMt3 (packWord 0x3 g st n b0 b1) w1 rest :=
  decodeUmp_mt3 (mtOf_packWord ..) w1 rest

theorem decode_sysEx8Words (st g n : U4) (sid b0 : Byte) (w1 w2 w3 : Word) (rest : List Word) :
    decode (.ump (sysEx8Words st g n sid b0 w1 w2 w3 rest)) = decodeMt5 (packWord 0x5 g st n sid b0) w1 w2 w3 rest :=
  decodeUmp_mt5 (mtOf_packWord ..) w1 w2 w3 rest

/-- The row of a reserved message type (R100, R269). -/
def reservedRow (mt g : U4) : Option Instr :=
  match mt.toNat with
  | 0x6 => some (.umpReservedMT6 g)
  | 0x7 => some (.umpReservedMT7 g)
  | 0x8 => some (.umpReservedMT8 g)
  | 0x9 => some (.umpReservedMT9 g)
  | 0xA => some (.umpReservedMTA g)
  | 0xB => some (.umpReservedMTB g)
  | 0xC => some (.umpReservedMTC g)
  | 0xD => some (.umpReservedMTD g)
  | 0xE => some (.umpReservedMTE g)
  | 0xF => some (.umpReservedMTF g)
  | _ => none

/-- A reserved message type is known from word 0 alone (R250). -/
theorem decodeUmp_reserved {w : Word} {i : Instr} (h : reservedRow (mtOf w) (grpOf w) = some i) (ws : List Word) :
    decodeUmp (w :: ws) = .ok i := by
  unfold reservedRow at h
  split at h
  case h_11 => cases h
  all_goals
    rename_i hmt
    cases h
    simp only [decodeUmp, hmt]

theorem decode_reservedFrame {mt g : U4} {i : Instr} (h : reservedRow mt g = some i) :
    decode (reservedFrame mt g) = .ok i :=
  decodeUmp_reserved (by rw [mtOf_packWord, grpOf_packWord, h]) _

/-! ### Every instruction -/

/-- Settles O1, row by row: the reader of each operand gives back what its writer wrote, and each word or byte has its
fields. -/
theorem decodeInvertsEncode : Obligations.DecodeInvertsEncode := by
  intro i
  cases i with
  | reset c => exact decodeCommand_of_reads (op := 0x01) (cs := [c]) (Reads.cell (Reads.pure _))
  | feed c t bs => exact decodeCommand_of_reads (Reads.cell (Reads.bits _ ((reads_bitsList bs).map (Reads.pure _))))
  | encM1 e => exact decodeCommand_of_reads ((reads_event e).map (Reads.pure _))
  | encUmp e P => exact decodeCommand_of_reads ((reads_event e).bind ((reads_protocol P).map (Reads.pure _)))
  | decM1 bs g => exact decodeCommand_of_reads ((reads_bitsList bs).bind ((reads_bits g).map (Reads.pure _)))
  | decUmp ws => exact decodeCommand_of_reads ((reads_bitsList ws).map (Reads.pure _))
  | makeUint N v => exact decodeCommand_of_reads (op := 0x20) (cs := [N, v]) (Reads.cell (Reads.cell (Reads.pure _)))
  | toBipolar v N => exact decodeCommand_of_reads (op := 0x22) (cs := [v, N]) (Reads.cell (Reads.cell (Reads.pure _)))
  | toUnipolar v N => exact decodeCommand_of_reads (op := 0x24) (cs := [v, N]) (Reads.cell (Reads.cell (Reads.pure _)))
  | scale v N M =>
    exact decodeCommand_of_reads (op := 0x21) (cs := [v, N, M]) (Reads.cell (Reads.cell (Reads.cell (Reads.pure _))))
  | fromBipolar x | fromUnipolar x => exact decodeCommand_of_reads ((reads_rat x).bind (Reads.cell (Reads.pure _)))
  | sysexId bs => exact decodeCommand_of_reads ((reads_bitsList bs).bind (Reads.cell (Reads.pure _)))
  | classify e => exact decodeCommand_of_reads ((reads_event e).map (Reads.pure _))
  | filter f es =>
    exact decodeCommand_of_reads
      ((reads_filter f).bind ((reads_list es fun e _ => reads_event e).map (Reads.pure _)))
  | m1NoteOff c t ch n v | m1NoteOn c t ch n v | m1NotePressure c t ch n v | m1Cc c t ch n v | m1PitchBend c t ch n v =>
    exact decode_chanFrame c t ch [n, v] (by decide)
  | m1ProgramChange c t ch v | m1Pressure c t ch v => exact decode_chanFrame c t ch [v] (by decide)
  | m1SysExStart c t body => exact decode_systemFrame c t body (by decide)
  | m1TimecodeQuarterFrame c t v | m1SongSelect c t v => exact decode_systemFrame c t [v] (by decide)
  | m1SongPositionPointer c t l m => exact decode_systemFrame c t [l, m] (by decide)
  | m1ReservedF4 c t | m1ReservedF5 c t | m1TuneRequest c t | m1Eox c t | m1TimingClock c t | m1ReservedF9 c t
  | m1Start c t | m1Continue c t | m1Stop c t | m1ReservedFD c t | m1ActiveSensing c t | m1SystemReset c t =>
    exact decode_systemFrame c t [] (by decide)
  | m1DataByte => simp [encode, decode, decodeMidi1]
  | umpNoOp | umpJrClock | umpJrTimestamp => simp [encode, decode, decodeUmp_mt0, decodeMt0]
  | umpMt1TimecodeQuarterFrame | umpMt1SongPositionPointer | umpMt1SongSelect | umpMt1TuneRequest | umpMt1TimingClock
  | umpMt1Start | umpMt1Continue | umpMt1Stop | umpMt1ActiveSensing | umpMt1SystemReset =>
    simp [encode, decode_mt1Frame, decodeMt1]
  | umpMt2NoteOff | umpMt2NoteOn | umpMt2NotePressure | umpMt2Cc | umpMt2ProgramChange | umpMt2Pressure
  | umpMt2PitchBend => simp [encode, decode_mt2Frame, decodeMt2]
  | umpSysEx7Complete | umpSysEx7Start | umpSysEx7Continue | umpSysEx7End =>
    simp [encode, decode_sysEx7Words, decodeMt3]
  | umpMt4NoteCCRegistered | umpMt4NoteCCAssignable | umpMt4RegisteredController | umpMt4AssignableController
  | umpMt4RelativeRegisteredController | umpMt4RelativeAssignableController | umpMt4NotePitchBend | umpMt4ReservedOp7
  | umpMt4NoteOff | umpMt4NoteOn | umpMt4NotePressure | umpMt4Cc | umpMt4ProgramChange | umpMt4Pressure
  | umpMt4PitchBend | umpMt4PerNoteManagement => simp [encode, decode_mt4Frame, decodeMt4]
  | umpSysEx8Complete | umpSysEx8Start | umpSysEx8Continue | umpSysEx8End | umpMixedDataHeader | umpMixedDataPayload =>
    simp [encode, decode_sysEx8Words, decodeMt5]
  | umpReservedMT6 | umpReservedMT7 | umpReservedMT8 | umpReservedMT9 | umpReservedMTA | umpReservedMTB
  | umpReservedMTC | umpReservedMTD | umpReservedMTE | umpReservedMTF => exact decode_reservedFrame rfl

/-- Settles O2: each frame is evaluated. -/
theorem wordsOfTheTableDecodeToTheirRows : Obligations.WordsOfTheTableDecodeToTheirRows := by
  unfold Obligations.WordsOfTheTableDecodeToTheirRows
  decide

/-! ### Word 0 as shifted fields (R72, R99, R155) -/

theorem byte0_eq_fields (w : Word) : byte0 w = ((mtOf w).setWidth 8 <<< 4 ||| (grpOf w).setWidth 8) := by
  unfold byte0 mtOf grpOf
  ext i hi
  simp
  grind

theorem packBytes_bytes (w : Word) : packBytes (byte0 w) (byte1 w) (byte2 w) (byte3 w) = w :=
  Machine.word_eq_of_fields (by simp) (by simp) (by simp) (by simp)

/-- Settles O3: a packed word is its shifted fields, and any word is packed from its own bytes. -/
theorem wordZeroIsItsShiftedFields : Obligations.WordZeroIsItsShiftedFields := by
  refine ⟨Machine.packWord_eq_fields, fun w => ⟨byte0_eq_fields w, ?_⟩⟩
  rw [← Machine.packBytes_eq_fields, packBytes_bytes]

end Sys2Proof
end

section
/-! PROOFS. What stands at the port (spec 20_memory.md section 4, 70_reset_and_hazards.md section 4; R454). A step is
one instruction, or the refusal of a command record that holds none. The row of a run of bytes is FEED of it, and the
row of a list of words is DEC_UMP of it; the one thing to show for that is that DEC_UMP takes no notice of the data
positions that a row leaves out (R107). -/

namespace Sys2Proof.Machine

/-! ### A step -/

theorem step_of_decode {s : State} {f : Frame} {rest : List Frame} {i : Instr} (hport : s.port = f :: rest)
    (hf : decode f = .ok i) : step s = exec i { s with port := rest } := by
  unfold step
  rw [hport]
  simp only [hf]

theorem step_of_undecoded {s : State} {f : Frame} {rest : List Frame} {r : DecodeError} (hport : s.port = f :: rest)
    (hf : decode f = .error r) : step s = .next (undecoded f { s with port := rest }) := by
  unfold step
  rw [hport]
  simp only [hf]

/-- Settles O4: the frame decodes, so the step takes that branch. -/
theorem stepRunsTheDecodedInstruction : Obligations.StepRunsTheDecodedInstruction :=
  fun _ _ _ _ => step_of_decode

/-- Settles O6: a command record that does not decode is refused. -/
theorem rejectedCommandIsRefused : Obligations.RejectedCommandIsRefused :=
  fun _ _ _ _ => step_of_undecoded

/-! ### MIDI 1.0 rows -/

theorem eq_chanStatus (b : Byte) : b = chanStatus (b.extractLsb' 4 4) (channel b) := by
  unfold chanStatus channel
  ext i hi
  simp
  grind

/-- The channel voice row of a message is what receives its bytes. -/
theorem exec_of_decodeM1Voice {c : Nat} {t : U64} {nib ch : U4} {d : List U7} {i : Instr}
    (h : decodeM1Voice c t nib.toNat ch d = .ok i) (s : State) :
    exec i s = .next (receive c t (chanStatus nib ch) d s) := by
  unfold decodeM1Voice at h
  split at h
  case h_8 => cases h
  case h_5 hn | h_6 hn =>
    obtain ⟨a, rfl, rfl⟩ := oneData_ok.mp h
    obtain ⟨-, rfl⟩ := BitVec.toNat_eq_nat.mp hn
    rfl
  all_goals
    rename_i hn
    obtain ⟨a, b, rfl, rfl⟩ := twoData_ok.mp h
    obtain ⟨-, rfl⟩ := BitVec.toNat_eq_nat.mp hn
    rfl

/-- The System row of a message is what receives its bytes. -/
theorem exec_of_decodeM1System {c : Nat} {t : U64} {ch : U4} {d : List U7} {i : Instr}
    (h : decodeM1System c t ch.toNat d = .ok i) (s : State) :
    exec i s = .next (receive c t (chanStatus 0xF ch) d s) := by
  unfold decodeM1System at h
  split at h
  case h_1 hn =>
    cases h
    obtain ⟨-, rfl⟩ := BitVec.toNat_eq_nat.mp hn
    rfl
  case h_2 hn | h_4 hn =>
    obtain ⟨a, rfl, rfl⟩ := oneData_ok.mp h
    obtain ⟨-, rfl⟩ := BitVec.toNat_eq_nat.mp hn
    rfl
  case h_3 hn =>
    obtain ⟨a, b, rfl, rfl⟩ := twoData_ok.mp h
    obtain ⟨-, rfl⟩ := BitVec.toNat_eq_nat.mp hn
    rfl
  case h_16 =>
    obtain ⟨rfl, rfl⟩ := noData_ok.mp h
    obtain rfl : ch = 0xF := by
      have hlt := ch.isLt
      simp only [imp_false] at *
      exact BitVec.eq_of_toNat_eq (by change ch.toNat = 15; omega)
    rfl
  all_goals
    rename_i hn
    obtain ⟨rfl, rfl⟩ := noData_ok.mp h
    obtain ⟨-, rfl⟩ := BitVec.toNat_eq_nat.mp hn
    rfl

/-- What a run of bytes decodes to is FEED of it (log entry 3). -/
theorem exec_of_decodeMidi1 {c : Nat} {t : U64} {bs : List Byte} {i : Instr} (h : decodeMidi1 c t bs = .ok i)
    (s : State) : exec i s = .next (feed c t bs s) := by
  unfold decodeMidi1 at h
  split at h
  · cases h
  rename_i st rest
  split at h
  · split at h
    · rename_i d hd
      obtain rfl := asData_eq_some hd
      rw [eq_chanStatus st] at h ⊢
      unfold decodeM1Status at h
      rw [nibble_chanStatus, channel_chanStatus] at h
      split at h
      · rename_i hF
        rw [(BitVec.toNat_eq_nat.mp hF).2]
        exact exec_of_decodeM1System h s
      · exact exec_of_decodeM1Voice h s
    · cases h
  · rename_i hdata
    split at h
    · cases h
      rw [exec_m1DataByte, byte_low7 (by simpa using hdata)]
    · cases h

/-! ### UMP rows -/

/-- A one-word message decodes from its used data positions alone (R107, R252, R253). -/
theorem decShort_congr {st d1 d2 e1 e2 : Byte}
    (h : [d1, d2].take ((need st).getD 0) = [e1, e2].take ((need st).getD 0)) (v0off : Bool) (g : U4) :
    decShort v0off st d1 d2 g = decShort v0off st e1 e2 g := by
  rw [decShort, decShort, h]

theorem decSystem_congr {st d1 d2 e1 e2 : Byte}
    (h : [d1, d2].take ((need st).getD 0) = [e1, e2].take ((need st).getD 0)) (g : U4) :
    decSystem st d1 d2 g = decSystem st e1 e2 g := by
  rw [decSystem, decSystem, decShort_congr h]

theorem decVoice1_congr {st d1 d2 e1 e2 : Byte}
    (h : [d1, d2].take ((need st).getD 0) = [e1, e2].take ((need st).getD 0)) (v0off : Bool) (g : U4) :
    decVoice1 v0off st d1 d2 g = decVoice1 v0off st e1 e2 g := by
  rw [decVoice1, decVoice1, decShort_congr h]

/-- An instruction does what DEC_UMP of some words does. -/
def IsDecUmpOf (ws : List Word) (i : Instr) : Prop := ∀ s : State, exec i s = exec (.decUmp ws) s

/-- An instruction that ends with what decoding some words gives is their DEC_UMP. -/
theorem exec_eq_decUmp {i : Instr} {s : State} {ws : List Word} {x : Except Err Event}
    (hi : exec i s = .next (s.decoded x)) (hx : decUmp s.params ws = x) : exec i s = exec (.decUmp ws) s := by
  rw [hi, exec_decUmp, hx, State.decoded_eq_ended]

theorem isDecUmpOf_of_decodeMt0 {w : Word} {i : Instr} (hmt : mtOf w = 0x0) (h : decodeMt0 w = .ok i) :
    IsDecUmpOf [w] i := by
  intro s
  unfold decodeMt0 at h
  simp only at h
  split at h
  case h_4 => cases h
  all_goals
    rename_i hst
    obtain ⟨-, hst⟩ := BitVec.toNat_eq_nat.mp hst
    cases h
    exact exec_eq_decUmp rfl ((decUmp_mt0 hmt _).trans (by rw [hst]; rfl))

theorem isDecUmpOf_of_decodeMt1 {w : Word} {i : Instr} (hmt : mtOf w = 0x1) (h : decodeMt1 w = .ok i) :
    IsDecUmpOf [w] i := by
  intro s
  unfold decodeMt1 at h
  simp only at h
  split at h
  case h_11 => cases h
  all_goals
    rename_i hst
    obtain ⟨-, hst⟩ := BitVec.toNat_eq_nat.mp hst
    cases h
    refine exec_eq_decUmp rfl ((decUmp_mt1 hmt _).trans ?_)
    rw [hst]
    exact decSystem_congr rfl _

theorem isDecUmpOf_of_decodeMt2 {w : Word} {i : Instr} (hmt : mtOf w = 0x2) (h : decodeMt2 w = .ok i) :
    IsDecUmpOf [w] i := by
  intro s
  unfold decodeMt2 at h
  simp only at h
  split at h
  case h_8 => cases h
  all_goals
    rename_i hst
    obtain ⟨-, hst⟩ := BitVec.toNat_eq_nat.mp hst
    cases h
    refine exec_eq_decUmp rfl ((decUmp_mt2 hmt _).trans ?_)
    rw [byte1_eq_chanStatus, hst]
    exact decVoice1_congr (by rw [need_chanStatus _ (by decide)] <;> rfl) _ _

theorem isDecUmpOf_of_decodeMt3 {w w1 : Word} {rest : List Word} {i : Instr} (hmt : mtOf w = 0x3)
    (h : decodeMt3 w w1 rest = .ok i) : IsDecUmpOf (w :: w1 :: rest) i := by
  intro s
  unfold decodeMt3 at h
  simp only at h
  split at h
  case h_5 => cases h
  all_goals
    rename_i hst
    obtain ⟨-, hst⟩ := BitVec.toNat_eq_nat.mp hst
    cases h
    refine exec_eq_decUmp rfl ((decUmp_mt3 hmt ..).trans ?_)
    conv_lhs => rw [← packWord_fields w, hmt, hst]
    rfl

theorem isDecUmpOf_of_decodeMt4 {w w1 : Word} {i : Instr} (hmt : mtOf w = 0x4) (h : decodeMt4 w w1 = .ok i) :
    IsDecUmpOf [w, w1] i := by
  intro s
  unfold decodeMt4 at h
  simp only at h
  split at h
  case h_16 =>
    have hst : stOf w = 0xF := by
      have hlt := (stOf w).isLt
      simp only [imp_false] at *
      exact BitVec.eq_of_toNat_eq (by change (stOf w).toNat = 15; omega)
    cases h
    refine exec_eq_decUmp rfl ((decUmp_mt4 hmt ..).trans ?_)
    simp only [decVoice2, hst]
    rfl
  all_goals
    rename_i hst
    obtain ⟨-, hst⟩ := BitVec.toNat_eq_nat.mp hst
    cases h
    refine exec_eq_decUmp rfl ((decUmp_mt4 hmt ..).trans ?_)
    simp only [decVoice2, hst]
    rfl

/-- A mixed data packet that comes first refuses the message, whatever packets follow (R264, R265, R268). -/
theorem decSysEx8_of_mixed {w : Word} {ws : List Word} (hst : stOf w = 0x8 ∨ stOf w = 0x9)
    (hlen : (w :: ws).length % 4 = 0) (r : Registry) :
    decSysEx8 r (w :: ws) = .error (.unsupported .mixedData) := by
  obtain ⟨ps, hps⟩ := exists_quads _ (w :: ws) (Nat.eq_mul_of_div_eq_right (Nat.dvd_of_mod_eq_zero hlen) rfl)
  have hfirst := quads_getElem? hps 0
  cases ps with
  | nil => cases hfirst
  | cons p ps =>
    obtain rfl : w = p.1 := Option.some.inj hfirst
    simp only [decSysEx8, hps, unpackAll, unpack8_mixed hst]

theorem isDecUmpOf_of_decodeMt5 {w w1 w2 w3 : Word} {rest : List Word} {i : Instr} (hmt : mtOf w = 0x5)
    (h : decodeMt5 w w1 w2 w3 rest = .ok i) : IsDecUmpOf (w :: w1 :: w2 :: w3 :: rest) i := by
  intro s
  unfold decodeMt5 at h
  simp only at h
  split at h
  case h_5 hst | h_6 hst =>
    obtain ⟨-, hst⟩ := BitVec.toNat_eq_nat.mp hst
    cases h
    exact exec_eq_decUmp rfl ((decUmp_mt5 hmt ..).trans (decSysEx8_of_mixed (by rw [hst]; decide) (by simp) _))
  case h_7 | h_8 | h_9 => cases h
  all_goals
    rename_i hst
    obtain ⟨-, hst⟩ := BitVec.toNat_eq_nat.mp hst
    cases h
    refine exec_eq_decUmp rfl ((decUmp_mt5 hmt ..).trans ?_)
    conv_lhs => rw [← packWord_fields w, hmt, hst]
    rfl

/-- What a list of words decodes to is DEC_UMP of it (log entry 3). -/
theorem isDecUmpOf_of_decodeUmp {ws : List Word} {i : Instr} (h : decodeUmp ws = .ok i) : IsDecUmpOf ws i := by
  unfold decodeUmp at h
  split at h
  · cases h
  rename_i w ws
  simp only at h
  split at h
  case h_1 hmt => exact isDecUmpOf_of_decodeMt0 (BitVec.toNat_eq_nat.mp hmt).2 h
  case h_2 hmt => exact isDecUmpOf_of_decodeMt1 (BitVec.toNat_eq_nat.mp hmt).2 h
  case h_3 hmt => exact isDecUmpOf_of_decodeMt2 (BitVec.toNat_eq_nat.mp hmt).2 h
  case h_4 hmt => exact isDecUmpOf_of_decodeMt3 (BitVec.toNat_eq_nat.mp hmt).2 h
  case h_5 hmt => exact isDecUmpOf_of_decodeMt4 (BitVec.toNat_eq_nat.mp hmt).2 h
  case h_6 hmt => exact isDecUmpOf_of_decodeMt5 (BitVec.toNat_eq_nat.mp hmt).2 h
  case h_17 => cases h
  all_goals
    rename_i hmt
    cases h
    exact fun s => exec_eq_decUmp rfl (decUmp_reserved (by omega) ..)

/-- Settles O5: a frame that decodes is FEED or DEC_UMP of what it holds, and one that does not decode is handed on as
such. -/
theorem arrivingMessagesAreFedOrDecoded : Obligations.ArrivingMessagesAreFedOrDecoded := by
  constructor
  · intro s c t bs rest hport
    cases hf : decode (.midi1 c t bs) with
    | ok i => rw [step_of_decode hport hf, exec_of_decodeMidi1 hf, exec_feed]
    | error r => rw [step_of_undecoded hport hf, undecoded, exec_feed]
  · intro s ws rest hport
    cases hf : decode (.ump ws) with
    | ok i => rw [step_of_decode hport hf, isDecUmpOf_of_decodeUmp hf]
    | error r => rw [step_of_undecoded hport hf, undecoded, State.decoded_eq_ended, exec_decUmp]

end Sys2Proof.Machine
end

section
/-! PROOFS. What decoding can end with. An event of a MIDI 1.0 message is at low resolution, of the group it was decoded
with and no SysEx (R213, R323); the event of a body has an identifier that the registry admits (R296, R297). The
parser emits only such events. And the kinds of error that each decoder raises (R400). -/

namespace Sys2Proof.Machine

/-! ### Events of MIDI 1.0 messages -/

/-- An event that a MIDI 1.0 message with group `g` can give (R201 to R213). -/
structure IsMessageEvent (g : U4) (e : Event) : Prop where
  notSysEx : catOf e ≠ .sysEx
  group : groupOf e = g
  low : atLowResolution e = true
  carried : inMidi1 e = true

theorem wf_of_catOf_ne_sysEx {e : Event} (h : catOf e ≠ .sysEx) (r : Registry) : e.wf r = true := by
  cases e with
  | sysEx7 | sysEx8 => exact absurd rfl h
  | _ => rfl

theorem isMessageEvent_of_chanEvent {v0off : Bool} {st : Byte} {d : List U7} {g : U4} {e : Event}
    (h : chanEvent v0off st d g = some e) : IsMessageEvent g e := by
  unfold chanEvent at h
  simp only at h
  split at h
  case h_8 => cases h
  case h_2 =>
    split at h <;> cases h <;> exact ⟨nofun, rfl, rfl, rfl⟩
  all_goals
    cases h
    exact ⟨nofun, rfl, rfl, rfl⟩

/-- A System Common status that has an event is one of the status map (R208 to R211). -/
theorem isMessageEvent_of_commonEvent {st : Byte} {d : List U7} {g : U4} {e : Event}
    (h : commonEvent st d g = some e) : 0xEF < st.toNat ∧ st.toNat ≤ 0xF6 ∧ IsMessageEvent g e := by
  unfold commonEvent at h
  split at h
  case h_5 => cases h
  all_goals
    cases h
    exact ⟨by omega, by omega, nofun, rfl, rfl, rfl⟩

theorem isMessageEvent_of_realTimeEvent {st : Byte} {g : U4} {e : Event} (h : realTimeEvent st g = some e) :
    IsMessageEvent g e := by
  unfold realTimeEvent at h
  split at h
  case h_7 => cases h
  all_goals
    cases h
    exact ⟨nofun, rfl, rfl, rfl⟩

theorem isMessageEvent_of_messageEvent {v0off : Bool} {st : Byte} {d : List U7} {g : U4} {e : Event}
    (h : messageEvent v0off st d g = some e) : IsMessageEvent g e := by
  unfold messageEvent at h
  split at h
  · exact isMessageEvent_of_chanEvent h
  split at h
  · exact (isMessageEvent_of_commonEvent h).2.2
  · exact isMessageEvent_of_realTimeEvent h

/-! ### Events of SysEx bodies -/

theorem resolve7_wf {r : Registry} {body : List U7} {id : SysExID} {k : Nat} (h : resolve7 r body = .ok (id, k)) :
    id.wf r = true := by
  unfold resolve7 at h
  split at h
  · cases h
  split at h
  · split at h
    · split at h
      · cases h; assumption
      · cases h
    · cases h
  split at h
  · cases h; assumption
  split at h
  · cases h; rfl
  split at h <;> cases h
  rfl

theorem resolve8_wf {r : Registry} {body : List Byte} {id : SysExID} {k : Nat} (h : resolve8 r body = .ok (id, k)) :
    id.wf r = true := by
  unfold resolve8 at h
  split at h
  case h_2 => cases h
  split at h
  · split at h
    · cases h
    split at h
    · cases h; assumption
    split at h
    · cases h; rfl
    split at h <;> cases h
    rfl
  split at h
  · split at h
    · cases h
    split at h <;> cases h
    assumption
  · cases h

theorem sysEx7FromBody_ok {r : Registry} {body : List U7} {g : U4} {e : Event} (h : sysEx7FromBody r body g = .ok e) :
    ∃ id data, e = .sysEx7 id data g ∧ id.wf r = true := by
  unfold sysEx7FromBody at h
  split at h <;> cases h
  exact ⟨_, _, rfl, resolve7_wf ‹_›⟩

theorem sysEx8FromBody_ok {r : Registry} {body : List Byte} {sid : Byte} {g : U4} {e : Event}
    (h : sysEx8FromBody r body sid g = .ok e) : ∃ id data, e = .sysEx8 id data sid g ∧ id.wf r = true := by
  unfold sysEx8FromBody at h
  split at h <;> cases h
  exact ⟨_, _, rfl, resolve8_wf ‹_›⟩

/-! ### How a decoder ends -/

/-- A decoding ends with a value of the event model, or with an error that satisfies `E`. -/
def Decodes (r : Registry) (E : Err → Prop) : Except Err Event → Prop
  | .ok e => e.wf r = true
  | .error e => E e

/-- The kinds of error of DEC_UMP on a message that is not empty (R250, R400). -/
def IsUmpError (e : Err) : Prop := e.kind ∈ [ErrKind.malformed, .unsupported]

theorem IsMalformed.isUmpError {e : Err} (h : IsMalformed e) : IsUmpError e := by
  obtain ⟨tag, rfl⟩ := h
  exact List.mem_cons_self

theorem Decodes.imp {r : Registry} {E F : Err → Prop} {x : Except Err Event} (h : Decodes r E x)
    (hEF : ∀ e, E e → F e) : Decodes r F x := by
  cases x with
  | ok e => exact h
  | error e => exact hEF e h

theorem decodes_ok {r : Registry} {E : Err → Prop} {e : Event} (h : catOf e ≠ .sysEx) : Decodes r E (.ok e) :=
  wf_of_catOf_ne_sysEx h r

theorem decodes_malformed (r : Registry) (tag : MalTag) : Decodes r IsMalformed (.error (.malformed tag)) := ⟨tag, rfl⟩

theorem resolve7_error {r : Registry} {body : List U7} {e : Err} (h : resolve7 r body = .error e) : IsMalformed e := by
  unfold resolve7 at h
  repeat' split at h
  all_goals cases h <;> exact ⟨_, rfl⟩

theorem resolve8_error {r : Registry} {body : List Byte} {e : Err} (h : resolve8 r body = .error e) :
    IsMalformed e := by
  unfold resolve8 at h
  repeat' split at h
  all_goals cases h <;> exact ⟨_, rfl⟩

theorem sysEx7FromBody_decodes (r : Registry) (body : List U7) (g : U4) :
    Decodes r IsMalformed (sysEx7FromBody r body g) := by
  unfold sysEx7FromBody
  cases h : resolve7 r body with
  | ok a => exact resolve7_wf h
  | error e => exact resolve7_error h

theorem sysEx8FromBody_decodes (r : Registry) (body : List Byte) (sid : Byte) (g : U4) :
    Decodes r IsMalformed (sysEx8FromBody r body sid g) := by
  unfold sysEx8FromBody
  cases h : resolve8 r body with
  | ok a => exact resolve8_wf h
  | error e => exact resolve8_error h

/-! ### DEC_M1 -/

theorem decM1_decodes (p : Params) (bs : List Byte) (g : U4) :
    Decodes p.registry (fun e => e.kind ∈ errorKinds (.decM1 bs g)) (decM1 p bs g) := by
  have hmal : ∀ e, IsMalformed e → e.kind ∈ errorKinds (.decM1 bs g) := by
    rintro e ⟨tag, rfl⟩
    exact List.mem_cons_of_mem _ List.mem_cons_self
  cases bs with
  | nil => exact List.mem_cons_self
  | cons st rest =>
    refine Decodes.imp ?_ hmal
    unfold decM1
    simp only
    split
    · exact decodes_malformed ..
    split
    · unfold decM1SysEx
      split
      · exact decodes_malformed ..
      split
      · exact decodes_malformed ..
      · exact sysEx7FromBody_decodes ..
    split
    · exact decodes_malformed ..
    split
    · exact decodes_malformed ..
    split
    · exact decodes_malformed ..
    split
    · exact decodes_ok (isMessageEvent_of_messageEvent ‹_›).notSysEx
    · exact decodes_malformed ..

/-! ### DEC_UMP -/

theorem decUtility_decodes (r : Registry) (st : U4) (v : U16) (g : U4) :
    Decodes r IsMalformed (decUtility st v g) := by
  unfold decUtility
  split
  case h_4 => exact decodes_malformed ..
  all_goals exact decodes_ok (by nofun)

theorem decShort_decodes (r : Registry) (v0off : Bool) (st d1 d2 : Byte) (g : U4) :
    Decodes r IsMalformed (decShort v0off st d1 d2 g) := by
  unfold decShort
  split
  · exact decodes_malformed ..
  split
  · exact decodes_ok (isMessageEvent_of_messageEvent ‹_›).notSysEx
  · exact decodes_malformed ..

theorem decSystem_decodes (r : Registry) (st d1 d2 : Byte) (g : U4) :
    Decodes r IsMalformed (decSystem st d1 d2 g) := by
  unfold decSystem
  split
  · exact decShort_decodes ..
  · exact decodes_malformed ..

theorem decVoice1_decodes (r : Registry) (v0off : Bool) (st d1 d2 : Byte) (g : U4) :
    Decodes r IsMalformed (decVoice1 v0off st d1 d2 g) := by
  unfold decVoice1
  split
  · exact decodes_malformed ..
  · exact decShort_decodes ..

theorem field7_decodes {r : Registry} {f : U7 → Except Err Event} (h : ∀ v, Decodes r IsMalformed (f v)) (b : Byte) :
    Decodes r IsMalformed (field7 b f) := by
  unfold field7
  split
  · exact decodes_malformed ..
  · exact h _

theorem decProgramChange_decodes (r : Registry) (bv : Bool) (p m l : Byte) (ch g : U4) :
    Decodes r IsMalformed (decProgramChange bv p m l ch g) := by
  refine field7_decodes (fun v => ?_) p
  split
  · exact field7_decodes (fun _ => field7_decodes (fun _ => decodes_ok (by nofun)) l) m
  · exact decodes_ok (by nofun)

theorem decVoice2_decodes (r : Registry) (w w1 : Word) : Decodes r IsUmpError (decVoice2 w w1) := by
  have hmal : ∀ {x : Except Err Event}, Decodes r IsMalformed x → Decodes r IsUmpError x :=
    fun h => h.imp fun _ => IsMalformed.isUmpError
  unfold decVoice2
  simp only
  split
  case h_4 => exact hmal (decodes_malformed ..)
  case h_9 => exact hmal (decProgramChange_decodes ..)
  case h_10 | h_11 => exact decodes_ok (by nofun)
  case h_12 => exact List.mem_cons_of_mem _ List.mem_cons_self
  all_goals exact hmal (field7_decodes (fun _ => decodes_ok (by nofun)) _)

theorem unpackAll_error_imp {α β : Type} {unpack : α → Except Err β} {E : Err → Prop}
    (h : ∀ a e, unpack a = .error e → E e) {l : List α} {e : Err} (hl : unpackAll unpack l = .error e) : E e := by
  induction l with
  | nil => cases hl
  | cons a l ih =>
    rw [unpackAll] at hl
    split at hl
    · cases hl
      exact h a e ‹_›
    split at hl
    · cases hl
      exact ih ‹_›
    · cases hl

theorem joinPackets_decodes {α : Type} {r : Registry} {build : List α → Byte → U4 → Except Err Event}
    (h : ∀ body sid g, Decodes r IsMalformed (build body sid g)) (ps : List (Packet α)) :
    Decodes r IsMalformed (joinPackets build ps) := by
  cases ps with
  | nil => exact decodes_malformed ..
  | cons p0 rest =>
    rw [joinPackets_cons]
    split
    · exact h _ _ _
    · exact decodes_malformed ..

theorem decSysEx7_decodes (r : Registry) (ws : List Word) : Decodes r IsMalformed (decSysEx7 r ws) := by
  unfold decSysEx7
  split
  · exact decodes_malformed ..
  split
  · exact unpackAll_error_imp (fun _ _ => unpack7_error) ‹_›
  · exact joinPackets_decodes (fun body _ g => sysEx7FromBody_decodes r body g) _

theorem unpack8_isUmpError {q : Word × Word × Word × Word} {e : Err} (h : unpack8 q = .error e) : IsUmpError e := by
  by_cases hmixed : stOf q.1 = 0x8 ∨ stOf q.1 = 0x9
  · rw [unpack8_mixed hmixed] at h
    cases h
    exact List.mem_cons_of_mem _ List.mem_cons_self
  · rw [not_or] at hmixed
    exact IsMalformed.isUmpError (unpack8_error hmixed.1 hmixed.2 h)

theorem decSysEx8_decodes (r : Registry) (ws : List Word) : Decodes r IsUmpError (decSysEx8 r ws) := by
  unfold decSysEx8
  split
  · exact List.mem_cons_self
  split
  · exact unpackAll_error_imp (fun _ _ => unpack8_isUmpError) ‹_›
  · exact (joinPackets_decodes (sysEx8FromBody_decodes r) _).imp fun _ => IsMalformed.isUmpError

theorem decUmp_decodes (p : Params) (w : Word) (ws : List Word) :
    Decodes p.registry IsUmpError (decUmp p (w :: ws)) := by
  have hmal : ∀ {x : Except Err Event}, Decodes p.registry IsMalformed x → Decodes p.registry IsUmpError x :=
    fun h => h.imp fun _ => IsMalformed.isUmpError
  unfold decUmp
  simp only
  split
  · exact hmal (decodes_malformed ..)
  split
  · exact hmal (decSysEx7_decodes ..)
  split
  · exact decSysEx8_decodes ..
  split
  · exact hmal (decodes_malformed ..)
  split
  · exact hmal (decUtility_decodes ..)
  · exact hmal (decSystem_decodes ..)
  · exact hmal (decVoice1_decodes ..)
  · exact decVoice2_decodes ..

/-! ### What the parser emits (R323) -/

/-- An event that decoding a MIDI 1.0 message or a SysEx body can give. -/
def IsStreamEvent (r : Registry) (g : U4) (e : Event) : Prop :=
  IsMessageEvent g e ∨ ∃ body, sysEx7FromBody r body g = .ok e

/-- Every event among the items satisfies `Q`. -/
def EventsAll (Q : Event → Prop) (its : List Item) : Prop := ∀ e, .ev e ∈ its → Q e

theorem EventsAll.append {Q : Event → Prop} {xs ys : List Item} (hx : EventsAll Q xs) (hy : EventsAll Q ys) :
    EventsAll Q (xs ++ ys) := fun e he => (List.mem_append.mp he).elim (hx e) (hy e)

theorem eventsAll_nil (Q : Event → Prop) : EventsAll Q [] := nofun

theorem eventsAll_er (Q : Event → Prop) (code : ErCode) (info : List Byte) : EventsAll Q [.er code info] := by
  intro e he
  cases List.mem_singleton.mp he

theorem eventsAll_cutShort (Q : Event → Prop) (S : Ctx) : EventsAll Q (cutShort S) := by
  unfold cutShort
  split
  · exact eventsAll_er _ _ _
  split
  · exact eventsAll_er _ _ _
  · exact eventsAll_nil Q

theorem eventsAll_evItems {Q : Event → Prop} {x : Option Event} (h : ∀ e, x = some e → Q e) :
    EventsAll Q (evItems x) := by
  cases x with
  | none => exact eventsAll_nil Q
  | some e =>
    intro e' he
    cases List.mem_singleton.mp he
    exact h e rfl

theorem eventsAll_sysExItem (p : Params) (g : U4) (S : Ctx) :
    EventsAll (IsStreamEvent p.registry g) [sysExItem p g S] := by
  unfold sysExItem
  split
  · exact eventsAll_er _ _ _
  split
  · intro e he
    cases List.mem_singleton.mp he
    exact .inr ⟨_, ‹_›⟩
  · exact eventsAll_er _ _ _

theorem eventsAll_collect (p : Params) (g : U4) (st : Byte) (v : U7) (S : Ctx) :
    EventsAll (IsStreamEvent p.registry g) (collect p g st v S).1 := by
  unfold collect
  simp only
  split
  · refine eventsAll_evItems fun e he => .inl ?_
    split at he
    · exact isMessageEvent_of_chanEvent he
    · exact (isMessageEvent_of_commonEvent he).2.2
  · exact eventsAll_nil _

theorem eventsAll_parserStep (p : Params) (g : U4) (b : Byte) (S : Ctx) :
    EventsAll (IsStreamEvent p.registry g) (parserStep p g b S).1 := by
  have hcut := eventsAll_cutShort (IsStreamEvent p.registry g) S
  rcases parserStep_cases p g b S with h | h | h | h | ⟨-, h⟩ | h | ⟨-, h⟩ | ⟨-, h⟩ | ⟨-, h⟩ <;> rw [h]
  · exact eventsAll_evItems fun e he => .inl (isMessageEvent_of_realTimeEvent he)
  · exact eventsAll_er _ _ _
  · rw [stepSysExStart, close_items]
    exact hcut
  · unfold stepEox
    split
    · exact eventsAll_sysExItem p g S
    · rw [close_items]
      exact hcut.append (eventsAll_er _ _ _)
  · unfold stepCommon
    split
    · rw [close_items]
      exact hcut.append (eventsAll_evItems fun e he => .inl (isMessageEvent_of_commonEvent he).2.2)
    · rw [close_items]
      exact hcut
  · rw [stepReservedCommon, close_items]
    exact hcut.append (eventsAll_er _ _ _)
  · rw [stepStatus, close_items]
    exact hcut
  · exact eventsAll_nil _
  · unfold stepData
    split
    · exact eventsAll_collect p g _ _ _
    split
    · exact eventsAll_er _ _ _
    · exact eventsAll_collect p g _ _ _

theorem eventsAll_feedBytes (p : Params) (g : U4) (bs : List Byte) (S : Ctx) :
    EventsAll (IsStreamEvent p.registry g) (feedBytes p g bs S).1 := by
  induction bs generalizing S with
  | nil => exact eventsAll_nil _
  | cons b bs ih => exact (eventsAll_parserStep p g b S).append (ih _)

theorem feedBytes_items_length (p : Params) (g : U4) (bs : List Byte) (S : Ctx) :
    (feedBytes p g bs S).1.length ≤ 2 * bs.length := by
  induction bs generalizing S with
  | nil => exact Nat.zero_le _
  | cons b bs ih =>
    have hstep := parserStep_items_length p g b S
    have hrest := ih (parserStep p g b S).2
    rw [feedBytes_cons, List.length_append, List.length_cons]
    omega

/-- A stream event carries what MIDI 1.0 bytes do, and is a value of the event model. -/
theorem IsStreamEvent.fields {r : Registry} {g : U4} {e : Event} (h : IsStreamEvent r g e) :
    groupOf e = g ∧ atLowResolution e = true ∧ inMidi1 e = true ∧ e.wf r = true := by
  rcases h with h | ⟨body, h⟩
  · exact ⟨h.group, h.low, h.carried, wf_of_catOf_ne_sysEx h.notSysEx r⟩
  · obtain ⟨id, data, rfl, hid⟩ := sysEx7FromBody_ok h
    exact ⟨rfl, rfl, rfl, hid⟩

/-- Settles O48: a step emits at most two items, and each event in them is that of a message or of a body. -/
theorem feedEmitsOnlyMidi1Events : Obligations.FeedEmitsOnlyMidi1Events := by
  intro c t bs s hc
  obtain ⟨S, hS⟩ := State.lt_nCtx_iff.mp hc
  refine ⟨_, _, exec_feed_of_feedBytes hS rfl t, feedBytes_items_length .., fun e he => ?_⟩
  obtain ⟨hgroup, hlow, hin, -⟩ := (eventsAll_feedBytes _ _ bs S e he).fields
  exact ⟨hgroup, hlow, hin⟩

end Sys2Proof.Machine
end

section
/-! PROOFS. What every instruction and every step does to the whole block (spec 10_state.md section 5, 60_exceptions.md
section 1). The instructions are of three kinds: commands that name no context, operations on one context, and UMP rows,
which are DEC_UMP of the words they are encoded as. A statement about all instructions is one about these three. -/

namespace Sys2Proof.Machine

/-! ### The kinds of instruction -/

/-- The commands of R90 that name no context. -/
inductive IsPureCommand : Instr → Prop
  | encM1 (e : Event) : IsPureCommand (.encM1 e)
  | encUmp (e : Event) (P : Protocol) : IsPureCommand (.encUmp e P)
  | decM1 (bs : List Byte) (g : U4) : IsPureCommand (.decM1 bs g)
  | decUmp (ws : List Word) : IsPureCommand (.decUmp ws)
  | makeUint (N v : Nat) : IsPureCommand (.makeUint N v)
  | scale (v N M : Nat) : IsPureCommand (.scale v N M)
  | toBipolar (v N : Nat) : IsPureCommand (.toBipolar v N)
  | fromBipolar (x : Rat) (N : Nat) : IsPureCommand (.fromBipolar x N)
  | toUnipolar (v N : Nat) : IsPureCommand (.toUnipolar v N)
  | fromUnipolar (x : Rat) (N : Nat) : IsPureCommand (.fromUnipolar x N)
  | sysexId (bs : List Byte) (width : Nat) : IsPureCommand (.sysexId bs width)
  | classify (e : Event) : IsPureCommand (.classify e)
  | filter (f : Filter) (es : List Event) : IsPureCommand (.filter f es)

/-- An instruction that names no context is a command or a UMP row; a row is in the domain whatever its operands (R75),
and has the errors of a DEC_UMP that is not empty. -/
theorem pure_cases {i : Instr} (h : contextOf i = none) :
    IsPureCommand i ∨ ∃ w ws, encode i = .ump (w :: ws) ∧ (∀ r n, i.wf r n = true)
      ∧ errorKinds i = [.malformed, .unsupported] := by
  cases i with
  | encM1 | encUmp | decM1 | decUmp | makeUint | scale | toBipolar | fromBipolar | toUnipolar | fromUnipolar | sysexId
  | classify | filter => exact .inl (by constructor)
  | _ =>
    cases h <;> exact .inr ⟨_, _, rfl, fun _ _ => rfl, rfl⟩

theorem isDecUmpOf_of_encode {i : Instr} {ws : List Word} (h : encode i = .ump ws) : IsDecUmpOf ws i := by
  have hdec := decodeInvertsEncode i
  rw [h] at hdec
  exact isDecUmpOf_of_decodeUmp hdec

theorem wf_of_contextOf {i : Instr} {c : Nat} (h : contextOf i = some c) (r : Registry) (n : Nat) :
    i.wf r n = decide (c < n) := by
  cases i <;> cases h <;> rfl

/-! ### Outcomes (R453, R78) -/

/-- Settles O14: an instruction that names no context ends with an outcome that the parameters fix, and one that names a
context is one operation on it. -/
theorem operationsEndWithOneOutcome : Obligations.OperationsEndWithOneOutcome := by
  constructor
  · intro i s t h
    rcases exec_effect h with ⟨r, rfl, -⟩ | ⟨c, S, S', r, -, -, -, rfl⟩
    · exact ⟨⟨r, rfl⟩, rfl, rfl, rfl⟩
    · exact ⟨⟨r, rfl⟩, rfl, rfl, List.length_set⟩
  · intro i s u hc hparams
    obtain ⟨r, hr⟩ := exec_pure u.params hc
    exact ⟨r, hr s hparams, hr u rfl⟩

@[simp] theorem State.onCtx_params (s : State) (c : Nat) (f : Ctx → Result × Ctx) :
    (s.onCtx c f).params = s.params := by
  cases hS : s.ctxs[c]? with
  | none => rw [State.onCtx_none hS, State.ended_params]
  | some S => rw [State.onCtx_some hS]

theorem State.onCtx_getElem?_of_ne {c d : Nat} (h : c ≠ d) (s : State) (f : Ctx → Result × Ctx) :
    (s.onCtx c f).ctxs[d]? = s.ctxs[d]? := by
  rw [State.onCtx_ctxs, List.getElem?_modify_ne _ _ h]

/-- Settles O17: each operation modifies its own entry of the context list by a function of that entry alone. -/
theorem operationsOnDifferentContextsCommute : Obligations.OperationsOnDifferentContextsCommute := by
  intro i j c d s t t' u u' hi hj hcd hit hjt' hju hiu'
  obtain ⟨f, hf⟩ := exec_eq_onCtx s.params hi
  obtain ⟨k, hk⟩ := exec_eq_onCtx s.params hj
  cases (hf s rfl).symm.trans hit
  cases (hk s rfl).symm.trans hju
  cases (hk _ (State.onCtx_params s c f)).symm.trans hjt'
  cases (hf _ (State.onCtx_params s d k)).symm.trans hiu'
  constructor
  · simp only [State.onCtx_ctxs]
    exact List.modify_modify_ne _ _ _ hcd
  · refine ⟨s.ctxs[c]?.elim .refused fun S => (f S).1, s.ctxs[d]?.elim .refused fun S => (k S).1, ?_, ?_⟩
    · rw [State.onCtx_outcomes, State.onCtx_outcomes, State.onCtx_getElem?_of_ne hcd, List.append_assoc]
      rfl
    · rw [State.onCtx_outcomes, State.onCtx_outcomes, State.onCtx_getElem?_of_ne hcd.symm, List.append_assoc]
      rfl

/-! ### The outcome of an instruction that names no context -/

/-- What such an instruction ends with on operands in its domain: no refusal, a value of its type, and only the errors
of its row of R90. -/
structure IsOutcomeOf (s : State) (i : Instr) (r : Result) : Prop where
  notRefused : r ≠ .refused
  typed : i.wf s.params.registry s.nCtx = true → resultTyped s.params.registry r
  errors : ∀ e, r = .err e → e.kind ∈ errorKinds i

/-- A success result. -/
def isValue : Result → Bool
  | .refused => false
  | .err _ => false
  | _ => true

section
variable {s : State} {i : Instr}

theorem isOutcomeOf_value {r : Result} (hvalue : isValue r = true)
    (htyped : i.wf s.params.registry s.nCtx = true → resultTyped s.params.registry r) : IsOutcomeOf s i r where
  notRefused := by rintro rfl; cases hvalue
  typed := htyped
  errors := by rintro e rfl; cases hvalue

theorem isOutcomeOf_resultOr {α : Type} {ok : α → Result} {x : Except Err α} (hvalue : ∀ a, isValue (ok a) = true)
    (htyped : i.wf s.params.registry s.nCtx = true → ∀ a, x = .ok a → resultTyped s.params.registry (ok a))
    (herr : ∀ e, x = .error e → e.kind ∈ errorKinds i) : IsOutcomeOf s i (resultOr ok x) := by
  cases x with
  | ok a => exact isOutcomeOf_value (hvalue a) fun hw => htyped hw a rfl
  | error e => exact ⟨nofun, fun _ => trivial, fun _ h => Result.err.inj h ▸ herr e rfl⟩

theorem isOutcomeOf_eventOr {x : Except Err Event} (h : Decodes s.params.registry (fun e => e.kind ∈ errorKinds i) x) :
    IsOutcomeOf s i (eventOr x) := by
  rw [← resultOr_event]
  refine isOutcomeOf_resultOr (fun _ => rfl) ?_ ?_
  · rintro - e rfl
    exact h
  · rintro e rfl
    exact h

end

/-! The checks of the domain are those of `WellFormed`. -/

theorem contains_uintWidths (N : Nat) : uintWidths.contains N = isUintWidth N := by
  rw [Bool.eq_iff_iff, List.contains_iff_mem, mem_uintWidths]

theorem contains_scaleWidths (N : Nat) : scaleWidths.contains N = isScaleWidth N := by
  rw [Bool.eq_iff_iff, List.contains_iff_mem, mem_scaleWidths]

theorem contains_sysexWidths (N : Nat) : sysexWidths.contains N = (N == 7 || N == 8) := by
  rw [Bool.eq_iff_iff, List.contains_iff_mem]
  simp [sysexWidths]

theorem fitsWidth_eq_isUint (v N : Nat) : fitsWidth v N = isUint v N := by
  rw [Bool.eq_iff_iff, isUint_iff, fitsWidth, decide_eq_true_iff]

/-! The errors and the values of each operation. -/

theorem m1Messages_error {e : Event} {err : Err} (h : m1Messages e = .error err) : err.kind = .unsupported := by
  cases e with
  | programChange _ bank => cases bank <;> cases h
  | _ => cases h <;> rfl

theorem enc1_error {e : Event} {err : Err} (h : enc1 e = .error err) : err.kind = .unsupported := by
  unfold enc1 at h
  split at h <;> cases h
  exact m1Messages_error ‹_›

theorem msgWords_error {mt g : U4} {e : Event} {err : Err} (h : msgWords mt g e = .error err) :
    err.kind = .unsupported := by
  unfold msgWords at h
  split at h <;> cases h
  exact m1Messages_error ‹_›

theorem encUmp_error {e : Event} {P : Protocol} {err : Err} (h : encUmp e P = .error err) :
    err.kind = .unsupported := by
  cases hc : catOf e with
  | chanVoice =>
    cases P with
    | M1 => exact msgWords_error (encUmp_M1_of_chanVoice hc ▸ h)
    | M2 =>
      obtain ⟨ws, hok, -⟩ := decUmp_encUmp_M2_of_chanVoice hc Params.reference
      cases hok.symm.trans h
  | systemCommon => exact msgWords_error (encUmp_of_system (.inl hc) P ▸ h)
  | systemRealTime => exact msgWords_error (encUmp_of_system (.inr hc) P ▸ h)
  | sysEx | utility =>
    cases e with
    | sysEx7 | sysEx8 | noOp | jrClock | jrTimestamp => cases h
    | _ => cases hc

theorem makeUint_error {N v : Nat} {err : Err} (h : makeUint N v = .error err) : err.kind = .rangeError := by
  unfold makeUint at h
  split at h <;> cases h
  rfl

theorem makeUint_le {N v w : Nat} (h : makeUint N v = .ok w) : w ≤ 2 ^ N - 1 := by
  unfold makeUint at h
  split at h <;> cases h
  exact not_lt.mp ‹_›

theorem fromBipolar_error {x : Rat} {N : Nat} {err : Err} (h : fromBipolar x N = .error err) :
    err.kind = .rangeError := by
  unfold fromBipolar at h
  split at h
  · cases h; rfl
  · split at h <;> cases h

theorem fromBipolar_le {x : Rat} {N v : Nat} (hN : N ∈ scaleWidths) (h : fromBipolar x N = .ok v) :
    v ≤ 2 ^ N - 1 := by
  unfold fromBipolar at h
  split at h
  · cases h
  rename_i hx
  simp only [not_or, not_lt, gt_iff_lt] at hx
  split at h <;> cases h
  · obtain ⟨hlo, hhi⟩ := lower_point_mem hN hx.1 ‹_›
    exact (roundQ_range hlo hhi).2
  · obtain ⟨hlo, hhi⟩ := upper_point_mem hN (not_lt.mp ‹_›) hx.2
    exact (roundQ_range hlo hhi).2

theorem fromUnipolar_error {x : Rat} {N : Nat} {err : Err} (h : fromUnipolar x N = .error err) :
    err.kind = .rangeError := by
  unfold fromUnipolar at h
  split at h <;> cases h
  rfl

theorem fromUnipolar_le {x : Rat} {N v : Nat} (h : fromUnipolar x N = .ok v) : v ≤ 2 ^ N - 1 := by
  have hx := h
  unfold fromUnipolar at hx
  split at hx
  · cases hx
  rename_i hx'
  simp only [not_or, not_lt, gt_iff_lt] at hx'
  obtain ⟨w, hw, hle, -⟩ := fromUnipolar_eq_floor N hx'.1 hx'.2
  cases hw.symm.trans h
  exact hle

theorem resolveId_wf {r : Registry} {bs : List Byte} {w : Nat} {a : SysExID × Nat} (h : resolveId r bs w = .ok a) :
    a.1.wf r = true := by
  unfold resolveId at h
  split at h
  · split at h
    · exact resolve7_wf h
    · cases h
  · exact resolve8_wf h

theorem resolveId_error {r : Registry} {bs : List Byte} {w : Nat} {err : Err} (h : resolveId r bs w = .error err) :
    IsMalformed err := by
  unfold resolveId at h
  split at h
  · split at h
    · exact resolve7_error h
    · cases h
      exact ⟨_, rfl⟩
  · exact resolve8_error h

/-- Every instruction that names no context ends with an outcome of its own on operands in its domain, and is refused on
others. -/
theorem exec_pure_outcome {i : Instr} (hc : contextOf i = none) (s : State) :
    ∃ r, IsOutcomeOf s i r ∧ exec i s = .next (s.ended (if i.wf s.params.registry s.nCtx then r else .refused)) := by
  rcases pure_cases hc with hi | ⟨w, ws, henc, hwf, hkinds⟩
  case inr =>
    refine ⟨_, isOutcomeOf_eventOr (by rw [hkinds]; exact decUmp_decodes s.params w ws), ?_⟩
    rw [isDecUmpOf_of_encode henc, exec_decUmp, hwf, if_pos rfl]
  cases hi with
  | encM1 e =>
    refine ⟨resultOr .bytes (enc1 e), isOutcomeOf_resultOr (fun _ => rfl) (fun _ _ _ => trivial) fun _ h => ?_, ?_⟩
    · rw [enc1_error h]
      exact List.mem_cons_self
    · rw [exec_encM1, admitsEvent_eq_wf, Instr.wf]
  | encUmp e P =>
    refine ⟨resultOr .words (encUmp e P), isOutcomeOf_resultOr (fun _ => rfl) (fun _ _ _ => trivial) fun _ h => ?_, ?_⟩
    · rw [encUmp_error h]
      exact List.mem_cons_self
    · rw [exec_encUmp, admitsEvent_eq_wf, Instr.wf]
  | decM1 bs g => exact ⟨_, isOutcomeOf_eventOr (decM1_decodes ..), exec_decM1 ..⟩
  | decUmp ws =>
    cases ws with
    | nil => exact ⟨_, isOutcomeOf_eventOr (x := .error .empty) List.mem_cons_self, rfl⟩
    | cons w ws =>
      exact ⟨_, isOutcomeOf_eventOr ((decUmp_decodes _ w ws).imp fun _ => List.mem_cons_of_mem _), exec_decUmp ..⟩
  | makeUint N v =>
    refine ⟨resultOr (.uint N) (makeUint N v),
      isOutcomeOf_resultOr (fun _ => rfl) (fun _ _ => makeUint_le) fun _ h => ?_, ?_⟩
    · rw [makeUint_error h]
      exact List.mem_cons_self
    · rw [exec_makeUint, Instr.wf, contains_uintWidths]
  | scale v N M =>
    refine ⟨.uint M (scaleNat v N M), isOutcomeOf_value rfl fun hw => ?_, ?_⟩
    · simp only [Instr.wf, Bool.and_eq_true, List.contains_iff_mem, fitsWidth_eq_isUint, isUint_iff] at hw
      obtain ⟨⟨hN, hM⟩, hv⟩ := hw
      exact scaleNat_le (scaleWidths_pos hN) (scaleWidths_pos hM) hv
    · rw [exec_scale, Instr.wf, contains_scaleWidths, contains_scaleWidths, fitsWidth_eq_isUint]
  | toBipolar v N =>
    refine ⟨.rational (toBipolar v N), isOutcomeOf_value rfl fun _ => trivial, ?_⟩
    rw [exec_toBipolar, Instr.wf, contains_scaleWidths, fitsWidth_eq_isUint]
  | fromBipolar x N =>
    refine ⟨resultOr (.uint N) (fromBipolar x N),
      isOutcomeOf_resultOr (fun _ => rfl) (fun hw _ => ?_) fun _ h => ?_, ?_⟩
    · exact fromBipolar_le (List.contains_iff_mem.mp hw)
    · rw [fromBipolar_error h]
      exact List.mem_cons_self
    · rw [exec_fromBipolar, Instr.wf, contains_scaleWidths]
  | toUnipolar v N =>
    refine ⟨.rational (toUnipolar v N), isOutcomeOf_value rfl fun _ => trivial, ?_⟩
    rw [exec_toUnipolar, Instr.wf, contains_scaleWidths, fitsWidth_eq_isUint]
  | fromUnipolar x N =>
    refine ⟨resultOr (.uint N) (fromUnipolar x N),
      isOutcomeOf_resultOr (fun _ => rfl) (fun _ _ => fromUnipolar_le) fun _ h => ?_, ?_⟩
    · rw [fromUnipolar_error h]
      exact List.mem_cons_self
    · rw [exec_fromUnipolar, Instr.wf, contains_scaleWidths]
  | sysexId bs w =>
    refine ⟨resultOr (fun a => .sysexId a.1 a.2) (resolveId s.params.registry bs w),
      isOutcomeOf_resultOr (fun _ => rfl) (fun _ _ => resolveId_wf) fun _ h => ?_, ?_⟩
    · obtain ⟨tag, rfl⟩ := resolveId_error h
      exact List.mem_cons_self
    · rw [exec_sysexId, Instr.wf, contains_sysexWidths]
  | classify e =>
    refine ⟨.classified (catOf e) (typeOf e), isOutcomeOf_value rfl fun _ => trivial, ?_⟩
    rw [exec_classify, admitsEvent_eq_wf, Instr.wf]
  | filter f es =>
    refine ⟨.events (applyFilter f es), isOutcomeOf_value rfl fun hw e he => ?_, ?_⟩
    · exact List.all_eq_true.mp hw e (List.mem_of_mem_filter he)
    · rw [exec_filter, Instr.wf, funext (admitsEvent_eq_wf _)]

/-! ### Refusal and errors (R400, R406) -/

theorem onCtx_refused_iff {s : State} {c : Nat} {f : Ctx → Result × Ctx} (hf : ∀ S, isValue (f S).1 = true) :
    s.onCtx c f = s.ended .refused ↔ ¬c < s.nCtx := by
  rw [State.lt_nCtx_iff]
  cases hS : s.ctxs[c]? with
  | none => simp [State.onCtx_none hS]
  | some S =>
    have hne : s.onCtx c f ≠ s.ended .refused := by
      intro h
      have houtcomes := congrArg State.outcomes h
      rw [State.onCtx_outcomes, hS] at houtcomes
      have hvalue := hf S
      rw [show (f S).1 = .refused by simpa using houtcomes] at hvalue
      cases hvalue
    simp [hne]

theorem exec_refused_iff_of_contextOf {i : Instr} {c : Nat} (hc : contextOf i = some c) (s : State) :
    exec i s = .next (s.ended .refused) ↔ ¬c < s.nCtx := by
  rcases exec_onCtx s.params hc with rfl | ⟨t, bs, hfeed⟩
  · rw [exec_reset, Host.Outcome.next.injEq, onCtx_refused_iff fun _ => rfl]
  · rw [hfeed s rfl, Host.Outcome.next.injEq, feed_eq_onCtx, onCtx_refused_iff fun _ => rfl]

/-- Settles O8: an operation on a context is refused when there is none, and every other instruction when its check
fails, for the outcome it has in its domain is no refusal. -/
theorem refusedExactlyOutsideTheDomain : Obligations.RefusedExactlyOutsideTheDomain := by
  intro i s
  cases hc : contextOf i with
  | some c => rw [exec_refused_iff_of_contextOf hc, wf_of_contextOf hc, decide_eq_false_iff_not]
  | none =>
    obtain ⟨r, hr, hexec⟩ := exec_pure_outcome hc s
    rw [hexec, next_ended_inj]
    cases i.wf s.params.registry s.nCtx with
    | true => exact iff_of_false hr.notRefused nofun
    | false => exact iff_of_true rfl rfl

/-- Settles O15: an instruction that ends with an error names no context, and the error is its own outcome. -/
theorem errorKindsOfEachOperation : Obligations.ErrorKindsOfEachOperation := by
  intro i s e h
  obtain ⟨-, hc⟩ := exec_error_effect h rfl
  obtain ⟨r, hr, hexec⟩ := exec_pure_outcome hc s
  rw [hexec, next_ended_inj] at h
  split at h
  · exact hr.errors e h
  · cases h

/-! ### What every step keeps -/

/-- A step is the end of a run, one instruction, or the refusal of a command record that holds none. -/
theorem step_cases {s t : State} (h : step s = .next t) :
    t = s ∨ ∃ rest, (∃ i, exec i { s with port := rest } = .next t)
      ∨ t = State.ended { s with port := rest } .refused := by
  cases hport : s.port with
  | nil =>
    unfold step at h
    rw [hport] at h
    cases h
    exact .inl rfl
  | cons f rest =>
    refine .inr ⟨rest, ?_⟩
    cases f with
    | command cells =>
      cases hf : decode (.command cells) with
      | ok i => exact .inl ⟨i, (step_of_decode hport hf).symm.trans h⟩
      | error r =>
        cases (step_of_undecoded hport hf).symm.trans h
        exact .inr rfl
    | midi1 c t bs => exact .inl ⟨_, (arrivingMessagesAreFedOrDecoded.1 s c t bs rest hport).symm.trans h⟩
    | ump ws => exact .inl ⟨_, (arrivingMessagesAreFedOrDecoded.2 s ws rest hport).symm.trans h⟩

/-- What every instruction keeps, whatever stands at the port and whatever has been refused, every step keeps. -/
theorem step_keeps {P : State → Prop} (hport : ∀ s port, P s → P { s with port := port })
    (hrefused : ∀ s : State, P s → P (s.ended .refused)) (hexec : ∀ i s t, P s → exec i s = .next t → P t)
    {s t : State} (hs : P s) (h : step s = .next t) : P t := by
  rcases step_cases h with rfl | ⟨rest, ⟨i, hi⟩ | rfl⟩
  · exact hs
  · exact hexec i _ t (hport s rest hs) hi
  · exact hrefused _ (hport s rest hs)

theorem State.Inv.onCtx {s : State} (h : s.Inv) {c : Nat} {f : Ctx → Result × Ctx}
    (hf : ∀ S, S.Inv s.params.sysexMax → (f S).2.Inv s.params.sysexMax) : (s.onCtx c f).Inv := by
  cases hS : s.ctxs[c]? with
  | none =>
    rw [State.onCtx_none hS]
    exact ⟨h.registryOk, h.ctxsInv⟩
  | some S =>
    rw [State.onCtx_some hS]
    refine ⟨h.registryOk, fun T hT => ?_⟩
    rcases List.mem_or_eq_of_mem_set hT with hmem | rfl
    · exact h.ctxsInv T hmem
    · exact hf S (h.ctxsInv S (List.mem_of_getElem? hS))

theorem exec_keeps_inv {i : Instr} {s t : State} (h : s.Inv) (ht : exec i s = .next t) : t.Inv := by
  cases hc : contextOf i with
  | none =>
    obtain ⟨r, hr⟩ := exec_pure s.params hc
    cases (hr s rfl).symm.trans ht
    exact ⟨h.registryOk, h.ctxsInv⟩
  | some c =>
    rcases exec_onCtx s.params hc with rfl | ⟨t', bs, hfeed⟩
    · cases ht
      exact h.onCtx fun _ _ => Ctx.reset_inv _
    · cases (hfeed s rfl).symm.trans ht
      exact h.onCtx fun _ hS => feedBytes_inv bs hS

/-- Settles O9: RESET leaves the reset record, and every byte of a FEED keeps the invariants. -/
theorem stepKeepsContextInvariants : Obligations.StepKeepsContextInvariants :=
  fun _ _ => step_keeps (fun _ _ h => ⟨h.registryOk, h.ctxsInv⟩) (fun _ h => ⟨h.registryOk, h.ctxsInv⟩)
    fun _ _ _ => exec_keeps_inv

theorem State.OutcomesTyped.append {s t : State} {r : Result} (h : s.OutcomesTyped) (hp : t.params = s.params)
    (ho : t.outcomes = s.outcomes ++ [r]) (hr : resultTyped s.params.registry r) : t.OutcomesTyped := by
  intro x hx
  rw [ho] at hx
  rw [hp]
  rcases List.mem_append.mp hx with hx | hx
  · exact h x hx
  · rwa [List.mem_singleton.mp hx]

/-- The items of a FEED are values of their types. -/
theorem fedCtx_typed (p : Params) (c : Nat) (t : U64) (bs : List Byte) (S : Ctx) :
    resultTyped p.registry (fedCtx p c t bs S).1 := by
  intro x hx
  obtain ⟨it, hit, rfl⟩ := List.mem_map.mp hx
  cases it with
  | ev e => exact (eventsAll_feedBytes p _ bs S e hit).fields.2.2.2
  | er code info => trivial

theorem State.OutcomesTyped.onCtx {s : State} (h : s.OutcomesTyped) {c : Nat} {f : Ctx → Result × Ctx}
    (hf : ∀ S, resultTyped s.params.registry (f S).1) : (s.onCtx c f).OutcomesTyped := by
  refine h.append (State.onCtx_params s c f) (State.onCtx_outcomes s c f) ?_
  cases s.ctxs[c]? with
  | none => trivial
  | some S => exact hf S

theorem exec_keeps_outcomesTyped {i : Instr} {s t : State} (h : s.OutcomesTyped) (ht : exec i s = .next t) :
    t.OutcomesTyped := by
  cases hc : contextOf i with
  | none =>
    obtain ⟨r, hr, hexec⟩ := exec_pure_outcome hc s
    cases hexec.symm.trans ht
    refine h.append rfl rfl ?_
    split
    · exact hr.typed ‹_›
    · trivial
  | some c =>
    rcases exec_onCtx s.params hc with rfl | ⟨t', bs, hfeed⟩
    · cases ht
      exact h.onCtx fun _ => trivial
    · cases (hfeed s rfl).symm.trans ht
      exact h.onCtx fun S => fedCtx_typed s.params c t' bs S

/-- Settles O12: every instruction's outcome is of its type, and so are the items of a FEED. -/
theorem stepKeepsOutcomesTyped : Obligations.StepKeepsOutcomesTyped :=
  fun _ _ => step_keeps (fun _ _ h => h) (fun _ h => h.append rfl rfl trivial) fun _ _ _ => exec_keeps_outcomesTyped

/-! ### The block as it comes into being (R441) -/

theorem init_getElem? {n c : Nat} (h : c < n) (p : Params) : (State.init p n).ctxs[c]? = some Ctx.reset := by
  simp [State.init, h]

/-- Settles O10: the initial contexts hold the reset record, so RESET of one writes back what is there. -/
theorem initialContextsAreReset : Obligations.InitialContextsAreReset := by
  intro p n
  refine ⟨List.length_replicate, rfl, rfl, rfl, fun c hc => init_getElem? hc p, fun c hc => ?_⟩
  obtain ⟨hlt, hget⟩ := List.getElem?_eq_some_iff.mp (init_getElem? hc p)
  rw [exec_reset_of_lt hlt, ← hget, List.set_getElem_self]
  rfl

/-- Settles O11: the reset record has the invariants, and no outcome is recorded yet. -/
theorem resetStateHasInvariants : Obligations.ResetStateHasInvariants := by
  refine ⟨rfl, ⟨rfl, fun S hS => ?_⟩, nofun⟩
  rw [List.eq_of_mem_replicate hS]
  exact Ctx.reset_inv _

end Sys2Proof.Machine
end

section
/-! PROOFS. DEC_UMP of one-packet messages (spec 42_ump_codec.md, R250 to R263, R268, R269). Each rule that reads 7-bit
positions ends with `dataOr` of the positions it reads: the event, or `DATA7`. The reserved bits are what no rule
reads (R107). -/

namespace Sys2Proof.Machine

/-- A row ends with what its decode rule gives. -/
theorem ended_of_eventOr {i : Instr} {s : State} {x : Except Err Event} {r : Result}
    (h : exec i s = .next (s.ended (eventOr x))) (hr : eventOr x = r) : exec i s = .next (s.ended r) := hr ▸ h

/-! ### The checks (R250) -/

/-- Settles O34: emptiness, then the message type, then the length that its packets ask. -/
theorem decodeUmpChecksInOrder : Obligations.DecodeUmpChecksInOrder := by
  have hone : ∀ mt ∈ ([0x0, 0x1, 0x2] : List U4), mt ∈ ([0x0, 0x1, 0x2, 0x4] : List U4) ∧ wordsOf mt = 1 := by decide
  intro s
  refine ⟨rfl, fun w ws h => exec_decUmp_of_eq (decUmp_reserved h ws _),
    fun w ws h hlen => exec_decUmp_of_eq ((decUmp_mt3 h ws _).trans (decSysEx7_of_length hlen _)),
    fun w ws h hlen => exec_decUmp_of_eq ((decUmp_mt5 h ws _).trans (decSysEx8_of_length hlen _)),
    fun w ws h hlen => ?_, fun w ws h hlen => ?_⟩
  · obtain ⟨hmem, hwords⟩ := hone _ h
    exact exec_decUmp_of_eq (decUmp_length hmem (by rwa [hwords]) _)
  · exact exec_decUmp_of_eq (decUmp_length (by simp [h]) (by rwa [h]) _)

/-! ### Data positions (R108) -/

theorem eventOr_decShort {st d1 d2 : Byte} {bs : List Byte} {v0off : Bool} {g : U4} {e : Event}
    (hbs : [d1, d2].take ((need st).getD 0) = bs) (he : messageEvent v0off st (bs.map Byte.low7) g = some e) :
    eventOr (decShort v0off st d1 d2 g) = dataOr bs e := by
  rw [decShort, hbs, asData, dataOr]
  cases bs.any isStatus with
  | true => rfl
  | false => simp [he, eventOr]

theorem eventOr_decSystem {st d1 d2 : Byte} {bs : List Byte} {g : U4} {e : Event} (hst : isMt1Status st = true)
    (hbs : [d1, d2].take ((need st).getD 0) = bs) (he : messageEvent false st (bs.map Byte.low7) g = some e) :
    eventOr (decSystem st d1 d2 g) = dataOr bs e := by
  rw [decSystem, if_pos hst, eventOr_decShort hbs he]

theorem eventOr_decVoice1 {nib ch : U4} {d1 d2 : Byte} {bs : List Byte} {v0off : Bool} {g : U4} {e : Event}
    (hnib : 0x8 ≤ nib.toNat ∧ nib.toNat ≤ 0xE)
    (hbs : [d1, d2].take (if nib.toNat = 0xC ∨ nib.toNat = 0xD then 1 else 2) = bs)
    (he : chanEvent v0off (chanStatus nib ch) (bs.map Byte.low7) g = some e) :
    eventOr (decVoice1 v0off (chanStatus nib ch) d1 d2 g) = dataOr bs e := by
  have hle : (chanStatus nib ch).toNat ≤ 0xEF := (isChanStatus_iff.mp (isChanStatus_chanStatus ch hnib)).2
  rw [decVoice1, nibble_chanStatus, if_neg (by omega)]
  refine eventOr_decShort (by rw [need_chanStatus ch hnib, Option.getD_some, hbs]) ?_
  rw [messageEvent, if_pos hle, he]

/-- A 7-bit field before what the rule reads next. -/
theorem eventOr_field7 {b : Byte} {f : U7 → Except Err Event} {bs : List Byte} {e : Event}
    (h : eventOr (f b.low7) = dataOr bs e) : eventOr (field7 b f) = dataOr (b :: bs) e := by
  rw [field7, dataOr, List.any_cons]
  cases isStatus b with
  | true => rfl
  | false => exact h

/-- A rule that reads no more 7-bit fields. -/
theorem eventOr_ok (e : Event) : eventOr (.ok e) = dataOr [] e := rfl

/-! ### Utility and System messages (R251, R252) -/

/-- Settles O37: each row's rule on its own status, and what is no status of the message type. -/
theorem utilityAndSystemMessagesDecode : Obligations.UtilityAndSystemMessagesDecode := by
  constructor
  · intro s g t
    refine ⟨rfl, rfl, rfl, fun w hmt hst => ?_⟩
    exact exec_decUmp_of_eq ((decUmp_mt0 hmt _).trans (decUtility_of_undefined hst _ _))
  · intro s g a b
    rw [← join14_eq_or]
    exact ⟨ended_of_eventOr (exec_umpMt1TimecodeQuarterFrame ..) (eventOr_decSystem rfl rfl rfl),
      ended_of_eventOr (exec_umpMt1SongPositionPointer ..) (eventOr_decSystem rfl rfl rfl),
      ended_of_eventOr (exec_umpMt1SongSelect ..) (eventOr_decSystem rfl rfl rfl),
      rfl, rfl, rfl, rfl, rfl, rfl, rfl, fun w hmt hst =>
        exec_decUmp_of_eq ((decUmp_mt1 hmt _).trans (decSystem_of_undefined hst _ _ _))⟩

/-! ### MIDI 1.0 channel voice messages (R253) -/

/-- Settles O38: each row's nibble with the data positions that it uses, and what is no nibble of the message type. -/
theorem midi1VoiceMessagesDecode : Obligations.Midi1VoiceMessagesDecode := by
  intro s g ch a b
  rw [← join14_eq_or]
  refine ⟨ended_of_eventOr (exec_umpMt2NoteOff ..) ?_, ended_of_eventOr (exec_umpMt2NoteOn ..) ?_,
    ended_of_eventOr (exec_umpMt2NotePressure ..) ?_, ended_of_eventOr (exec_umpMt2Cc ..) ?_,
    ended_of_eventOr (exec_umpMt2ProgramChange ..) ?_, ended_of_eventOr (exec_umpMt2Pressure ..) ?_,
    ended_of_eventOr (exec_umpMt2PitchBend ..) ?_, fun w hmt hst =>
      exec_decUmp_of_eq ((decUmp_mt2 hmt _).trans (decVoice1_of_undefined hst _ _ _ _))⟩
  case refine_2 => exact eventOr_decVoice1 (by decide) rfl (by simp [chanEvent, apply_ite some, Attr.none])
  all_goals exact eventOr_decVoice1 (by decide) rfl (by simp [chanEvent])

/-! ### MIDI 2.0 channel voice messages (R256 to R263, R268) -/

/-- Settles O39: each rule reads its 7-bit fields in turn and then has its event. -/
theorem midi2VoiceMessagesDecode : Obligations.Midi2VoiceMessagesDecode := by
  intro s g ch a b v d w p m l
  refine ⟨ended_of_eventOr (exec_umpMt4NoteOff ..) ?_, ended_of_eventOr (exec_umpMt4NoteOn ..) ?_,
    ended_of_eventOr (exec_umpMt4NotePressure ..) ?_, ended_of_eventOr (exec_umpMt4Cc ..) ?_,
    ended_of_eventOr (exec_umpMt4ProgramChange ..) ?banked, ended_of_eventOr (exec_umpMt4ProgramChange ..) ?_, rfl, rfl,
    ended_of_eventOr (exec_umpMt4NotePitchBend ..) ?_, ended_of_eventOr (exec_umpMt4NoteCCRegistered ..) ?_,
    ended_of_eventOr (exec_umpMt4NoteCCAssignable ..) ?_⟩
  case banked =>
    refine eventOr_field7 ?_
    rw [if_pos rfl]
    exact eventOr_field7 (eventOr_field7 (eventOr_ok _))
  all_goals exact eventOr_field7 (eventOr_ok _)

theorem decVoice2_of_unsupported {w : Word} (h : stOf w ∈ ([0x2, 0x3, 0x4, 0x5, 0xF] : List U4)) (w1 : Word) :
    decVoice2 w w1 = .error (.unsupported (.opcode (stOf w))) := by
  simp only [List.mem_cons, List.not_mem_nil, or_false] at h
  rcases h with h | h | h | h | h <;> simp only [decVoice2, h] <;> rfl

/-- Settles O40: the rows by their rules, and the same forms as words, a mixed data packet by R265's first error. -/
theorem unsupportedAndReservedUmpForms : Obligations.UnsupportedAndReservedUmpForms := by
  constructor
  · intro s g ch
    exact ⟨rfl, rfl, rfl, rfl, rfl, rfl, rfl,
      fun w x hmt hst => exec_decUmp_of_eq ((decUmp_mt4 hmt x _).trans (decVoice2_of_unsupported hst x)),
      fun w ws hmt hst hlen => exec_decUmp_of_eq ((decUmp_mt5 hmt ws _).trans (decSysEx8_of_mixed hst hlen _))⟩
  · intro s g ch i hi
    simp only [List.mem_cons, List.not_mem_nil, or_false] at hi
    rcases hi with rfl | rfl | rfl | rfl | rfl | rfl | rfl | rfl | rfl | rfl | rfl
    case inr.inr.inr.inr.inr.inr.inr.inr.inr.inr =>
      rw [if_pos rfl]
      rfl
    all_goals
      rw [if_neg nofun]
      rfl

/-! ### Reserved bits (R107) -/

/-- Two messages end alike. -/
theorem exec_decUmp_alike {s : State} {ws ws' : List Word} (h : decUmp s.params ws = decUmp s.params ws') :
    ∃ r, exec (.decUmp ws) s = .next (s.ended r) ∧ exec (.decUmp ws') s = .next (s.ended r) :=
  ⟨_, exec_decUmp_of_eq h, exec_decUmp_of_eq rfl⟩

theorem decUtility_congr {st : U4} {v v' : U16} (h : st = 0x0 ∨ v = v') (g : U4) :
    decUtility st v g = decUtility st v' g := by
  rcases h with rfl | rfl <;> rfl

/-- The data positions that a status uses, from the bytes that are equal. -/
theorem take_need_congr {st d1 d2 e1 e2 : Byte} (h : need st = some 0 ∨ d1 = e1 ∧ (need st = some 1 ∨ d2 = e2)) :
    [d1, d2].take ((need st).getD 0) = [e1, e2].take ((need st).getD 0) := by
  rcases h with h | ⟨rfl, h | rfl⟩
  · rw [h]
    rfl
  · rw [h]
    rfl
  · rfl

/-- The opcodes of MT 0x4 with reserved bits in word 0: they read no more of it than `h` names. -/
theorem decVoice2_congr {w w' : Word} (hg : grpOf w = grpOf w') (hst : stOf w = stOf w') (hch : chOf w = chOf w')
    (h : stOf w ∈ ([0xD, 0xE] : List U4) ∨ (stOf w ∈ ([0x6, 0xA, 0xB] : List U4) ∧ byte2 w = byte2 w')
      ∨ (stOf w = 0xC ∧ (byte3 w).getLsbD 0 = (byte3 w').getLsbD 0)) (w1 : Word) :
    decVoice2 w w1 = decVoice2 w' w1 := by
  unfold decVoice2
  rw [← hst, ← hg, ← hch]
  simp only [List.mem_cons, List.not_mem_nil, or_false] at h
  rcases h with (h | h) | ⟨h | h | h, h2⟩ | ⟨h, h3⟩
  case inr.inr =>
    rw [h]
    change decProgramChange _ _ _ _ _ _ = decProgramChange _ _ _ _ _ _
    rw [h3]
  case inl.inl | inl.inr =>
    rw [h]
    rfl
  all_goals
    rw [h, h2]
    rfl

/-- Opcode 0xC, with or without a bank (R259). -/
theorem decVoice2_programChange_congr {w w' w1 w1' : Word} (hg : grpOf w = grpOf w') (hst : stOf w = 0xC)
    (hst' : stOf w' = 0xC) (hch : chOf w = chOf w') (hbank : (byte3 w).getLsbD 0 = (byte3 w').getLsbD 0)
    (h0 : byte0 w1 = byte0 w1')
    (h : (byte3 w).getLsbD 0 = false ∨ byte2 w1 = byte2 w1' ∧ byte3 w1 = byte3 w1') :
    decVoice2 w w1 = decVoice2 w' w1' := by
  unfold decVoice2
  rw [hst, hst', ← hg, ← hch]
  change decProgramChange _ _ _ _ _ _ = decProgramChange _ _ _ _ _ _
  rw [← hbank, ← h0]
  rcases h with h | ⟨h2, h3⟩
  · rw [h]
    rfl
  · rw [← h2, ← h3]

theorem unpack7_congr {st g : U4} {p q : Pack7} (hn : p.n = q.n) (hbody : p.body = q.body) :
    unpack7 (packWord 0x3 g st p.n p.b0 p.b1, p.w1) = unpack7 (packWord 0x3 g st q.n q.b0 q.b1, q.w1) := by
  unfold Pack7.body at hbody
  simp only [unpack7, chOf_packWord, stOf_packWord, byte2_packWord, byte3_packWord, grpOf_packWord]
  rw [hbody, hn]

theorem unpack8_congr {st g : U4} {sid : Byte} {p q : Pack8} (hn : p.n = q.n) (hbody : p.body = q.body) :
    unpack8 (packWord 0x5 g st p.n sid p.b0, p.w1, p.w2, p.w3)
      = unpack8 (packWord 0x5 g st q.n sid q.b0, q.w1, q.w2, q.w3) := by
  unfold Pack8.body at hbody
  simp only [unpack8, chOf_packWord, stOf_packWord, byte2_packWord, byte3_packWord, grpOf_packWord, bytesOf,
    List.cons_append, List.nil_append]
  rw [hbody, hn]

/-- Settles O36: each message type's rule on the fields that it uses, a SysEx packet by what it unpacks to. -/
theorem reservedFieldsAreIgnored : Obligations.ReservedFieldsAreIgnored := by
  intro s w w' hmt hg
  refine ⟨fun h hst hlo => exec_decUmp_alike ?_, fun h hb1 hbs => exec_decUmp_alike ?_,
    fun x h hst hch hused => exec_decUmp_alike ?_, fun x x' h hst hst' hch hbank h0 hused => exec_decUmp_alike ?_,
    fun st p q hn hbody => exec_decUmp_alike ?_, fun st sid p q hn hbody => exec_decUmp_alike ?_⟩
  · rw [decUmp_mt0 h, decUmp_mt0 (hmt ▸ h), ← hg, ← hst, decUtility_congr hlo]
  · rcases h with h | h
    · rw [decUmp_mt1 h, decUmp_mt1 (hmt ▸ h), ← hg, ← hb1, decSystem_congr (take_need_congr hbs)]
    · rw [decUmp_mt2 h, decUmp_mt2 (hmt ▸ h), ← hg, ← hb1, decVoice1_congr (take_need_congr hbs)]
  · rw [decUmp_mt4 h, decUmp_mt4 (hmt ▸ h), decVoice2_congr hg hst hch hused]
  · rw [decUmp_mt4 h, decUmp_mt4 (hmt ▸ h), decVoice2_programChange_congr hg hst hst' hch hbank h0 hused]
  · rw [Pack7.words, Pack7.words, decUmp_mt3 (mtOf_packWord ..), decUmp_mt3 (mtOf_packWord ..)]
    simp only [decSysEx7, pairs, Option.map_some, unpackAll, unpack7_congr hn hbody]
  · rw [Pack8.words, Pack8.words, decUmp_mt5 (mtOf_packWord ..), decUmp_mt5 (mtOf_packWord ..)]
    simp only [decSysEx8, quads, Option.map_some, unpackAll, unpack8_congr hn hbody]

end Sys2Proof.Machine
end

section
/-! PROOFS. DEC_UMP of SysEx messages (spec 42_ump_codec.md, R264, R265): packets that unpack join when they are in
sequence, and the first packet that does not unpack gives its error. -/

namespace Sys2Proof.Machine

/-! ### The sequence of unpacked packets (R265) -/

/-- R265's conditions: one group and stream ID, and the status of each packet that of its place. -/
def InSequence {α : Type} (qs : List (Packet α)) : Prop :=
  (∀ x ∈ qs, ∀ y ∈ qs, x.g = y.g ∧ x.sid = y.sid)
    ∧ ∀ j x, qs[j]? = some x → x.st.setWidth 32 = statusOf j qs.length

theorem inSequence_map {α β : Type} {f : β → Packet α} {l : List β} :
    InSequence (l.map f) ↔ (∀ x ∈ l, ∀ y ∈ l, (f x).g = (f y).g ∧ (f x).sid = (f y).sid)
      ∧ ∀ j x, l[j]? = some x → (f x).st.setWidth 32 = statusOf j l.length := by
  simp [InSequence]

theorem joinPackets_of_inSequence {α : Type} (build : List α → Byte → U4 → Except Err Event) {qs : List (Packet α)}
    (hne : qs ≠ []) (h : InSequence qs) :
    ∃ g sid, (∀ x ∈ qs, x.g = g ∧ x.sid = sid)
      ∧ joinPackets build qs = build (qs.flatMap (·.bytes)) sid g := by
  obtain ⟨p0, rest, rfl⟩ := List.exists_cons_of_ne_nil hne
  have hsame : ∀ x ∈ p0 :: rest, x.g = p0.g ∧ x.sid = p0.sid := fun x hx => h.1 x hx p0 List.mem_cons_self
  exact ⟨_, _, hsame, joinPackets_of_statusesOk ((statusesOk_iff _).mpr ⟨hne, h.2⟩) hsame⟩

theorem joinPackets_of_not_inSequence {α : Type} (build : List α → Byte → U4 → Except Err Event)
    {qs : List (Packet α)} (h : ¬InSequence qs) : joinPackets build qs = .error (.malformed .sequence) := by
  cases qs with
  | nil => rfl
  | cons p0 rest =>
    rw [joinPackets_cons, if_neg]
    rintro ⟨hsame, hst⟩
    have hall : ∀ x ∈ p0 :: rest, x.g = p0.g ∧ x.sid = p0.sid := List.forall_mem_cons.mpr ⟨⟨rfl, rfl⟩, hsame⟩
    refine h ⟨fun x hx y hy => ?_, ((statusesOk_iff _).mp hst).2⟩
    exact ⟨(hall x hx).1.trans (hall y hy).1.symm, (hall x hx).2.trans (hall y hy).2.symm⟩

/-- A start packet, continue packets and an end packet. -/
theorem statusesOk_start {α : Type} {p q : Packet α} {mid : List (Packet α)} (hp : p.st = 0x1)
    (hmid : ∀ x ∈ mid, x.st = 0x2) (hq : q.st = 0x3) : statusesOk (p :: (mid ++ [q])) = true := by
  have hends : endsWell (mid ++ [q]) = true := by
    induction mid with
    | nil => simp [endsWell, hq]
    | cons x mid ih =>
      obtain ⟨hx, hmid⟩ := List.forall_mem_cons.mp hmid
      cases mid <;> simpa [endsWell, hx] using ih hmid
  cases mid <;> simpa [statusesOk, hp] using hends

/-- The first status tells whether more packets follow. -/
theorem status_of_statusesOk {α : Type} {p : Packet α} {ps : List (Packet α)} (h : statusesOk (p :: ps) = true) :
    p.st = 0x0 ∧ ps.length = 0 ∨ p.st = 0x1 ∧ ps.length ≠ 0 := by
  cases ps with
  | nil => exact .inl ⟨by simpa [statusesOk] using h, rfl⟩
  | cons q ps =>
    simp only [statusesOk, Bool.and_eq_true, beq_iff_eq] at h
    exact .inr ⟨h.1, nofun⟩

theorem statusesOk_of_joinPackets {α : Type} {build : List α → Byte → U4 → Except Err Event} {ps : List (Packet α)}
    {e : Event} (h : joinPackets build ps = .ok e) : statusesOk ps = true := by
  cases ps with
  | nil => cases h
  | cons p0 rest =>
    rw [joinPackets_cons] at h
    split at h
    · rename_i hok
      exact hok.2
    · cases h

theorem unpackAll_cons_ok {α β : Type} {unpack : α → Except Err β} {a : α} {l : List α} {qs : List β}
    (h : unpackAll unpack (a :: l) = .ok qs) :
    ∃ q rest, unpack a = .ok q ∧ qs = q :: rest ∧ rest.length = l.length := by
  induction l generalizing a qs with
  | nil =>
    simp only [unpackAll] at h
    split at h
    · cases h
    · cases h
      exact ⟨_, [], ‹_›, rfl, rfl⟩
  | cons b l ih =>
    rw [unpackAll] at h
    split at h
    · cases h
    split at h
    · cases h
    rename_i hl
    cases h
    obtain ⟨q, rest, -, rfl, hlen⟩ := ih hl
    exact ⟨_, _, ‹_›, rfl, congrArg (· + 1) hlen⟩

/-- Behind packets that unpack, the first that does not gives its error. -/
theorem unpackAll_of_error {α β γ : Type} {unpack : β → Except Err γ} {f : α → β} {pre post : List α} {x : α} {e : Err}
    (hpre : ∀ a ∈ pre, ∃ q, unpack (f a) = .ok q) (hx : unpack (f x) = .error e) :
    unpackAll unpack ((pre ++ x :: post).map f) = .error e := by
  have hnone : ∀ b ∈ pre.map f, ∀ e', unpack b = .error e' → e' = e := by
    intro b hb e' he'
    obtain ⟨a, ha, rfl⟩ := List.mem_map.mp hb
    obtain ⟨q, hq⟩ := hpre a ha
    rw [hq] at he'
    cases he'
  obtain ⟨e', he', rfl⟩ := unpackAll_error (E := (· = e)) (post := post.map f) hnone ⟨e, hx, rfl⟩
  rwa [List.map_append, List.map_cons]

/-! ### Messages as lists of packets -/

/-- The words of a list of MT 0x3 packets, each with its group and status. -/
def message7 (ps : List (U4 × U4 × Pack7)) : List Word := ps.flatMap fun x => x.2.2.words x.1 x.2.1

/-- The words of a list of MT 0x5 packets, each with its group, status and stream ID. -/
def message8 (ps : List (U4 × U4 × Byte × Pack8)) : List Word :=
  ps.flatMap fun x => x.2.2.2.words x.1 x.2.1 x.2.2.1

/-- The words of one MT 0x3 packet. -/
def pair7 (x : U4 × U4 × Pack7) : Word × Word := (packWord 0x3 x.1 x.2.1 x.2.2.n x.2.2.b0 x.2.2.b1, x.2.2.w1)

/-- The words of one MT 0x5 packet. -/
def quad8 (x : U4 × U4 × Byte × Pack8) : Word × Word × Word × Word :=
  (packWord 0x5 x.1 x.2.1 x.2.2.2.n x.2.2.1 x.2.2.2.b0, x.2.2.2.w1, x.2.2.2.w2, x.2.2.2.w3)

/-- What an MT 0x3 packet of data bytes unpacks to. -/
def unpacked7 (x : U4 × U4 × Pack7) : Packet U7 := ⟨x.1, x.2.1, 0, x.2.2.body.map Byte.low7⟩

/-- What an MT 0x5 packet unpacks to. -/
def unpacked8 (x : U4 × U4 × Byte × Pack8) : Packet Byte := ⟨x.1, x.2.1, x.2.2.1, x.2.2.2.body⟩

theorem pairs_message7 (ps : List (U4 × U4 × Pack7)) : pairs (message7 ps) = some (ps.map pair7) := pairs_pack7 id ps

theorem quads_message8 (ps : List (U4 × U4 × Byte × Pack8)) : quads (message8 ps) = some (ps.map quad8) :=
  quads_pack8 id ps

theorem decUmp_message7 (p : Params) {ps : List (U4 × U4 × Pack7)} (hne : ps ≠ []) :
    decUmp p (message7 ps) = decSysEx7 p.registry (message7 ps) := by
  obtain ⟨x, ps, rfl⟩ := List.exists_cons_of_ne_nil hne
  exact decUmp_mt3 (mtOf_packWord ..) _ p

theorem decUmp_message8 (p : Params) {ps : List (U4 × U4 × Byte × Pack8)} (hne : ps ≠ []) :
    decUmp p (message8 ps) = decSysEx8 p.registry (message8 ps) := by
  obtain ⟨x, ps, rfl⟩ := List.exists_cons_of_ne_nil hne
  exact decUmp_mt5 (mtOf_packWord ..) _ p

theorem isStatus_of_map_byte {bs : List Byte} {body : List U7} (h : bs = body.map U7.byte) :
    ∀ b ∈ bs, isStatus b = false := by
  subst h
  simp

theorem decSysEx7_message7 (r : Registry) {ps : List (U4 × U4 × Pack7)} {body : List U7}
    (hps : ∀ x ∈ ps, x.2.1.toNat ≤ 0x3 ∧ x.2.2.counted) (hbody : ps.flatMap (·.2.2.body) = body.map U7.byte) :
    decSysEx7 r (message7 ps) = joinPackets (fun body _ g => sysEx7FromBody r body g) (ps.map unpacked7) := by
  have hunpack : ∀ x ∈ ps, unpack7 (pair7 x) = .ok (unpacked7 x) := fun x hx =>
    unpack7_pack7 (hps x hx).1 (hps x hx).2 fun b hb =>
      isStatus_of_map_byte hbody b (List.mem_flatMap.mpr ⟨x, hx, hb⟩)
  simp only [decSysEx7, pairs_message7, unpackAll_map hunpack]

theorem decSysEx8_message8 (r : Registry) {ps : List (U4 × U4 × Byte × Pack8)}
    (hps : ∀ x ∈ ps, x.2.1.toNat ≤ 0x3 ∧ x.2.2.2.counted) :
    decSysEx8 r (message8 ps) = joinPackets (sysEx8FromBody r) (ps.map unpacked8) := by
  have hunpack : ∀ x ∈ ps, unpack8 (quad8 x) = .ok (unpacked8 x) := fun x hx => unpack8_pack8 (hps x hx).1 (hps x hx).2
  simp only [decSysEx8, quads_message8, unpackAll_map hunpack]

theorem flatMap_unpacked7 {ps : List (U4 × U4 × Pack7)} {body : List U7}
    (hbody : ps.flatMap (·.2.2.body) = body.map U7.byte) : (ps.map unpacked7).flatMap (·.bytes) = body := by
  rw [← map_low7_map_byte body, ← hbody, List.map_flatMap, List.flatMap_map]
  rfl

theorem flatMap_unpacked8 (ps : List (U4 × U4 × Byte × Pack8)) :
    (ps.map unpacked8).flatMap (·.bytes) = ps.flatMap (·.2.2.2.body) := List.flatMap_map ..

/-- Behind MT 0x3 packets that unpack, the first that does not ends DEC_UMP with its error. -/
theorem exec_message7_of_error {pre : List (U4 × U4 × Pack7)} {x : U4 × U4 × Pack7} {e : Err}
    (hpre : ∀ y ∈ pre, y.2.1.toNat ≤ 0x3 ∧ y.2.2.counted ∧ ∀ b ∈ y.2.2.body, b.toNat < 0x80)
    (hx : unpack7 (pair7 x) = .error e) (post : List (U4 × U4 × Pack7)) (s : State) :
    exec (.decUmp (message7 (pre ++ x :: post))) s = .next (s.ended (.err e)) := by
  have hunpack : ∀ y ∈ pre, ∃ q, unpack7 (pair7 y) = .ok q := by
    intro y hy
    obtain ⟨hst, hcounted, hdata⟩ := hpre y hy
    exact ⟨_, unpack7_pack7 hst hcounted fun b hb => by simp [isStatus, hdata b hb]⟩
  rw [exec_decUmp, decUmp_message7 _ (List.append_ne_nil_of_right_ne_nil _ (List.cons_ne_nil _ _))]
  simp only [decSysEx7, pairs_message7, unpackAll_of_error hunpack hx]
  rfl

/-- Behind MT 0x5 packets that unpack, the first that does not ends DEC_UMP with its error. -/
theorem exec_message8_of_error {pre : List (U4 × U4 × Byte × Pack8)} {x : U4 × U4 × Byte × Pack8} {e : Err}
    (hpre : ∀ y ∈ pre, y.2.1.toNat ≤ 0x3 ∧ y.2.2.2.counted) (hx : unpack8 (quad8 x) = .error e)
    (post : List (U4 × U4 × Byte × Pack8)) (s : State) :
    exec (.decUmp (message8 (pre ++ x :: post))) s = .next (s.ended (.err e)) := by
  have hunpack : ∀ y ∈ pre, ∃ q, unpack8 (quad8 y) = .ok q := fun y hy =>
    ⟨_, unpack8_pack8 (hpre y hy).1 (hpre y hy).2⟩
  rw [exec_decUmp, decUmp_message8 _ (List.append_ne_nil_of_right_ne_nil _ (List.cons_ne_nil _ _))]
  simp only [decSysEx8, quads_message8, unpackAll_of_error hunpack hx]
  rfl

/-- Settles O43: packets that unpack join or are out of sequence, and else the first that does not unpack decides. -/
theorem packetSequencesJoinOrFail : Obligations.PacketSequencesJoinOrFail := by
  intro s
  refine ⟨fun ps body hne hps hbody => ?_, fun pre post x hpre => ?_, fun pre post x hpre => ?_,
    fun ps hne hps => ?_⟩
  · have hdec := (decUmp_message7 s.params hne).trans (decSysEx7_message7 _ hps hbody)
    have hseq : InSequence (ps.map unpacked7) ↔ (∀ x ∈ ps, ∀ y ∈ ps, x.1 = y.1)
        ∧ ∀ j x, ps[j]? = some x → x.2.1.setWidth 32 = statusOf j ps.length := by
      simp [inSequence_map, unpacked7]
    rw [← hseq]
    constructor
    · intro h
      obtain ⟨g, sid, hsame, hjoin⟩ := joinPackets_of_inSequence
        (fun body _ g => sysEx7FromBody s.params.registry body g) (by simpa using hne) h
      rw [flatMap_unpacked7 hbody] at hjoin
      exact ⟨g, fun x hx => (hsame _ (List.mem_map_of_mem hx)).1, exec_decUmp_of_eq (hdec.trans hjoin)⟩
    · exact fun h => exec_decUmp_of_eq (hdec.trans (joinPackets_of_not_inSequence _ h))
  · constructor
    · rintro hst hcounted ⟨b, hb, hdata⟩
      have hx := unpack7_pack7_data7 (g := x.1) hst hcounted ⟨b, hb, by simp [isStatus, hdata]⟩
      exact exec_message7_of_error hpre hx post s
    · intro hbad
      have hx := unpack7_packet (p := pair7 x) (by simpa [pair7] using hbad)
      exact ⟨_, exec_message7_of_error hpre hx post s⟩
  · constructor
    · intro hst
      exact exec_message8_of_error hpre (unpack8_mixed (by simpa [quad8] using hst)) post s
    · intro h8 h9 hbad
      have hx := unpack8_packet (p := quad8 x) (by simpa [quad8] using h8) (by simpa [quad8] using h9) (by
        simp only [Pack8.counted, quad8, stOf_packWord, chOf_packWord] at hbad ⊢
        omega)
      exact ⟨_, exec_message8_of_error hpre hx post s⟩
  · have hdec := (decUmp_message8 s.params hne).trans (decSysEx8_message8 _ hps)
    have hseq : InSequence (ps.map unpacked8) ↔ (∀ x ∈ ps, ∀ y ∈ ps, x.1 = y.1 ∧ x.2.2.1 = y.2.2.1)
        ∧ ∀ j x, ps[j]? = some x → x.2.1.setWidth 32 = statusOf j ps.length := inSequence_map
    rw [← hseq]
    constructor
    · intro h
      obtain ⟨g, sid, hsame, hjoin⟩ := joinPackets_of_inSequence (sysEx8FromBody s.params.registry)
        (by simpa using hne) h
      rw [flatMap_unpacked8] at hjoin
      exact ⟨g, sid, fun x hx => hsame _ (List.mem_map_of_mem hx), exec_decUmp_of_eq (hdec.trans hjoin)⟩
    · exact fun h => exec_decUmp_of_eq (hdec.trans (joinPackets_of_not_inSequence _ h))

/-! ### Whole messages and parts of messages -/

theorem unpack7_st {p : Word × Word} {q : Packet U7} (h : unpack7 p = .ok q) : q.st = stOf p.1 := by
  unfold unpack7 at h
  simp only at h
  split at h
  · cases h
  split at h <;> cases h
  rfl

theorem unpack8_st {p : Word × Word × Word × Word} {q : Packet Byte} (h : unpack8 p = .ok q) : q.st = stOf p.1 := by
  unfold unpack8 at h
  simp only at h
  split at h
  · cases h
  split at h <;> cases h
  rfl

/-- Packets of `k` words that join are one complete packet, or a start packet with more behind it. -/
theorem status_of_joinPackets {α β : Type} {unpack : β → Except Err (Packet α)} {st : β → U4}
    (hst : ∀ p q, unpack p = .ok q → q.st = st p) {p : β} {ps : List β} {qs : List (Packet α)}
    {build : List α → Byte → U4 → Except Err Event} {e : Event} (hqs : unpackAll unpack (p :: ps) = .ok qs)
    (h : joinPackets build qs = .ok e) : st p = 0x0 ∧ ps.length = 0 ∨ st p = 0x1 ∧ ps.length ≠ 0 := by
  obtain ⟨q, rest, hq, rfl, hlen⟩ := unpackAll_cons_ok hqs
  rw [← hst p q hq, ← hlen]
  exact status_of_statusesOk (statusesOk_of_joinPackets h)

theorem status_of_decSysEx7 {r : Registry} {w w1 : Word} {rest : List Word} {e : Event}
    (h : decSysEx7 r (w :: w1 :: rest) = .ok e) : stOf w = 0x0 ∧ rest = [] ∨ stOf w = 0x1 ∧ rest ≠ [] := by
  rw [decSysEx7, pairs] at h
  cases hps : pairs rest with
  | none => simp [hps] at h
  | some ps =>
    simp only [hps, Option.map_some] at h
    split at h
    · cases h
    · have := status_of_joinPackets (unpack := unpack7) (st := fun p => stOf p.1) (fun _ _ => unpack7_st) ‹_› h
      simpa [← List.length_eq_zero_iff, pairs_length hps] using this

theorem status_of_decSysEx8 {r : Registry} {w w1 w2 w3 : Word} {rest : List Word} {e : Event}
    (h : decSysEx8 r (w :: w1 :: w2 :: w3 :: rest) = .ok e) :
    stOf w = 0x0 ∧ rest = [] ∨ stOf w = 0x1 ∧ rest ≠ [] := by
  rw [decSysEx8, quads] at h
  cases hps : quads rest with
  | none => simp [hps] at h
  | some ps =>
    simp only [hps, Option.map_some] at h
    split at h
    · cases h
    · have := status_of_joinPackets (unpack := unpack8) (st := fun p => stOf p.1) (fun _ _ => unpack8_st) ‹_› h
      simpa [← List.length_eq_zero_iff, quads_length hps] using this

/-- What decodes to no event ends with an error of its kind. -/
theorem Decodes.error {r : Registry} {E : Err → Prop} {x : Except Err Event} (h : Decodes r E x)
    (hok : ∀ e, x ≠ .ok e) : ∃ e, x = .error e ∧ E e := by
  cases x with
  | ok e => exact absurd rfl (hok e)
  | error e => exact ⟨e, rfl, h⟩

/-- A row whose packets are no whole message is `Malformed`. -/
theorem ended_malformed_of_sysEx7 {i : Instr} {s : State} {w w1 : Word} {rest : List Word}
    (hi : exec i s = .next (s.ended (eventOr (decSysEx7 s.params.registry (w :: w1 :: rest)))))
    (h : ¬(stOf w = 0x0 ∧ rest = [] ∨ stOf w = 0x1 ∧ rest ≠ [])) :
    ∃ tag, exec i s = .next (s.ended (.err (.malformed tag))) := by
  obtain ⟨e, he, tag, rfl⟩ := (decSysEx7_decodes s.params.registry (w :: w1 :: rest)).error fun e he =>
    h (status_of_decSysEx7 he)
  exact ⟨tag, by rw [hi, he]; rfl⟩

theorem decSysEx8_single_decodes (r : Registry) {w : Word} (h8 : stOf w ≠ 0x8) (h9 : stOf w ≠ 0x9)
    (w1 w2 w3 : Word) : Decodes r IsMalformed (decSysEx8 r [w, w1, w2, w3]) := by
  simp only [decSysEx8, quads, Option.map_some, unpackAll]
  cases hq : unpack8 (w, w1, w2, w3) with
  | error e => exact unpack8_error (p := (w, w1, w2, w3)) h8 h9 hq
  | ok q => exact joinPackets_decodes (sysEx8FromBody_decodes r) [q]

/-- A row whose packets are no whole message ends with an error, `Malformed` when nothing follows its packet. -/
theorem ended_error_of_sysEx8 {i : Instr} {s : State} {w w1 w2 w3 : Word} {rest : List Word}
    (hi : exec i s = .next (s.ended (eventOr (decSysEx8 s.params.registry (w :: w1 :: w2 :: w3 :: rest)))))
    (hle : (stOf w).toNat ≤ 0x3) (h : ¬(stOf w = 0x0 ∧ rest = [] ∨ stOf w = 0x1 ∧ rest ≠ [])) :
    ∃ e, exec i s = .next (s.ended (.err e)) ∧ (rest = [] → IsMalformed e) := by
  obtain ⟨e, he, -⟩ := (decSysEx8_decodes s.params.registry (w :: w1 :: w2 :: w3 :: rest)).error fun e he =>
    h (status_of_decSysEx8 he)
  refine ⟨e, by rw [hi, he]; rfl, ?_⟩
  rintro rfl
  have hsingle := decSysEx8_single_decodes s.params.registry (w := w) (by rintro hw; simp [hw] at hle)
    (by rintro hw; simp [hw] at hle) w1 w2 w3
  rwa [he] at hsingle

/-- A start packet, continue packets and an end packet of one group. -/
def stream7 (g : U4) (p q : Pack7) (mid : List Pack7) : List (U4 × U4 × Pack7) :=
  (g, 0x1, p) :: (mid.map (fun x => (g, 0x2, x)) ++ [(g, 0x3, q)])

/-- A start packet, continue packets and an end packet of one group and stream ID. -/
def stream8 (g : U4) (sid : Byte) (p q : Pack8) (mid : List Pack8) : List (U4 × U4 × Byte × Pack8) :=
  (g, 0x1, sid, p) :: (mid.map (fun x => (g, 0x2, sid, x)) ++ [(g, 0x3, sid, q)])

theorem message7_stream7 (g : U4) (p q : Pack7) (mid : List Pack7) :
    message7 (stream7 g p q mid)
      = sysEx7Words 0x1 g p.n p.b0 p.b1 p.w1 (mid.flatMap (Pack7.words g 0x2) ++ q.words g 0x3) := by
  simp only [message7, stream7, List.flatMap_cons, List.flatMap_append, List.flatMap_map, List.flatMap_nil,
    List.append_nil]
  rfl

theorem message8_stream8 (g : U4) (sid : Byte) (p q : Pack8) (mid : List Pack8) :
    message8 (stream8 g sid p q mid) = sysEx8Words 0x1 g p.n sid p.b0 p.w1 p.w2 p.w3
      (mid.flatMap (Pack8.words g 0x2 sid) ++ q.words g 0x3 sid) := by
  simp only [message8, stream8, List.flatMap_cons, List.flatMap_append, List.flatMap_map, List.flatMap_nil,
    List.append_nil]
  rfl

theorem statusesOk_stream7 (g : U4) (p q : Pack7) (mid : List Pack7) :
    statusesOk ((stream7 g p q mid).map unpacked7) = true := by
  simp only [stream7, List.map_cons, List.map_append, List.map_map, List.map_nil]
  exact statusesOk_start rfl (by simp [unpacked7]) rfl

theorem statusesOk_stream8 (g : U4) (sid : Byte) (p q : Pack8) (mid : List Pack8) :
    statusesOk ((stream8 g sid p q mid).map unpacked8) = true := by
  simp only [stream8, List.map_cons, List.map_append, List.map_map, List.map_nil]
  exact statusesOk_start rfl (by simp [unpacked8]) rfl

theorem decSysEx7_of_statusesOk (r : Registry) {ps : List (U4 × U4 × Pack7)} {body : List U7} {g : U4}
    (hps : ∀ x ∈ ps, x.1 = g ∧ x.2.1.toNat ≤ 0x3 ∧ x.2.2.counted) (hbody : ps.flatMap (·.2.2.body) = body.map U7.byte)
    (hst : statusesOk (ps.map unpacked7) = true) : decSysEx7 r (message7 ps) = sysEx7FromBody r body g := by
  rw [decSysEx7_message7 r (fun x hx => (hps x hx).2) hbody,
    joinPackets_of_statusesOk (g := g) (sid := 0) hst, flatMap_unpacked7 hbody]
  exact List.forall_mem_map.mpr fun x hx => ⟨(hps x hx).1, rfl⟩

theorem decSysEx8_of_statusesOk (r : Registry) {ps : List (U4 × U4 × Byte × Pack8)} {g : U4} {sid : Byte}
    (hps : ∀ x ∈ ps, x.1 = g ∧ x.2.2.1 = sid ∧ x.2.1.toNat ≤ 0x3 ∧ x.2.2.2.counted)
    (hst : statusesOk (ps.map unpacked8) = true) :
    decSysEx8 r (message8 ps) = sysEx8FromBody r (ps.flatMap (·.2.2.2.body)) sid g := by
  rw [decSysEx8_message8 r (fun x hx => (hps x hx).2.2),
    joinPackets_of_statusesOk (g := g) (sid := sid) hst, flatMap_unpacked8]
  exact List.forall_mem_map.mpr fun x hx => (hps x hx).imp_right And.left

/-- Settles O41: a message whose first status and length agree joins, and any other is `Malformed`. -/
theorem sysEx7MessagesDecode : Obligations.SysEx7MessagesDecode := by
  intro s g p q mid rest body
  refine ⟨fun hp hbody => ?_, fun hps hbody => ?_, ?_, ?_, ?_, fun hrest => ?_⟩
  · rw [exec_umpSysEx7Complete, ← decSysEx7_of_statusesOk _ (ps := [(g, 0x0, p)]) (g := g)
      (by simpa using hp) (by simpa using hbody) rfl]
    rfl
  · rw [exec_umpSysEx7Start, ← message7_stream7, decSysEx7_of_statusesOk _ (g := g) ?_ ?_ (statusesOk_stream7 ..)]
    · simpa [stream7, or_imp, forall_and] using hps
    · simpa [stream7, List.flatMap_map] using hbody
  · exact ended_malformed_of_sysEx7 (exec_umpSysEx7Continue ..) (by simp)
  · exact ended_malformed_of_sysEx7 (exec_umpSysEx7End ..) (by simp)
  · exact ended_malformed_of_sysEx7 (exec_umpSysEx7Start ..) (by simp)
  · exact ended_malformed_of_sysEx7 (exec_umpSysEx7Complete ..) (by simp [hrest])

/-- Settles O42: as O41, with the error of the first packet that does not unpack. -/
theorem sysEx8MessagesDecode : Obligations.SysEx8MessagesDecode := by
  have hkind : ∀ {e}, IsMalformed e → e.kind = .malformed := fun ⟨_, h⟩ => h ▸ rfl
  intro s g sid p q mid rest
  refine ⟨fun hp => ?_, fun hps => ?_, ?_, ?_, ?_, fun hrest => ?_⟩
  · have h := decSysEx8_of_statusesOk s.params.registry (ps := [(g, 0x0, sid, p)]) (g := g) (sid := sid)
      (by simpa using hp) rfl
    rw [List.flatMap_singleton] at h
    rw [exec_umpSysEx8Complete, ← h]
    rfl
  · rw [exec_umpSysEx8Start, ← message8_stream8, decSysEx8_of_statusesOk _ (g := g) (sid := sid) ?_
      (statusesOk_stream8 ..)]
    · simp [stream8, List.flatMap_map]
    · simpa [stream8, or_imp, forall_and] using hps
  · obtain ⟨e, he, hmal⟩ := ended_error_of_sysEx8 (exec_umpSysEx8Continue g p.n sid p.b0 p.w1 p.w2 p.w3 rest s)
      (by simp) (by simp)
    exact ⟨e, he, fun h => hkind (hmal h)⟩
  · obtain ⟨e, he, hmal⟩ := ended_error_of_sysEx8 (exec_umpSysEx8End g p.n sid p.b0 p.w1 p.w2 p.w3 rest s)
      (by simp) (by simp)
    exact ⟨e, he, fun h => hkind (hmal h)⟩
  · obtain ⟨e, he, hmal⟩ := ended_error_of_sysEx8 (exec_umpSysEx8Start g p.n sid p.b0 p.w1 p.w2 p.w3 [] s)
      (by simp) (by simp)
    obtain ⟨tag, rfl⟩ := hmal rfl
    exact ⟨tag, he⟩
  · obtain ⟨e, he, -⟩ := ended_error_of_sysEx8 (exec_umpSysEx8Complete g p.n sid p.b0 p.w1 p.w2 p.w3 rest s)
      (by simp) (by simp [hrest])
    exact ⟨e, he⟩

end Sys2Proof.Machine
end

section
/-! PROOFS. SYSEX_ID of raw bytes (spec 43_sysex.md, R290 to R292): resolve7 and resolve8 by the kind of the first
bytes, and what each gives. -/

namespace Sys2Proof.Machine

theorem exec_sysexId7_of_eq {body : List U7} {s : State} {x : Except Err (SysExID × Nat)}
    (h : resolve7 s.params.registry body = x) : exec (.sysexId (body.map U7.byte) 7) s
      = .next (s.ended (resultOr (fun a => .sysexId a.1 a.2) x)) := by
  rw [exec_sysexId_width7, h]

theorem exec_sysexId8_of_eq {body : List Byte} {s : State} {x : Except Err (SysExID × Nat)}
    (h : resolve8 s.params.registry body = x) :
    exec (.sysexId body 8) s = .next (s.ended (resultOr (fun a => .sysexId a.1 a.2) x)) := by
  rw [exec_sysexId_width8, h]

/-! ### Width 7 (R291) -/

theorem resolve7_short {d : List U7} (h : d.length < 2) (r : Registry) :
    resolve7 r (0x00 :: d) = .error (.malformed .shortId) := by
  rcases d with _ | ⟨b1, _ | ⟨b2, d⟩⟩
  · rfl
  · rfl
  · simp at h

theorem resolve7_three (r : Registry) (b1 b2 : U7) (d : List U7) :
    resolve7 r (0x00 :: b1 :: b2 :: d)
      = if r.reg3 b1 b2 then .ok (.mfr3 b1 b2, 3) else .error (.malformed .unregistered) := rfl

theorem resolve7_one {b : U7} (h : b ≠ 0x00) (r : Registry) (d : List U7) :
    resolve7 r (b :: d) = if r.reg1 b then .ok (.mfr1 b, 1) else if b = 0x7E then .ok (.universal false, 1)
      else if b = 0x7F then .ok (.universal true, 1) else .error (.malformed .unregistered) := if_neg h

/-! ### Width 8 (R292) -/

theorem resolve8_short {bs : List Byte} (h : bs.length < 2) (r : Registry) :
    resolve8 r bs = .error (.malformed .shortId) := by
  rcases bs with _ | ⟨h, _ | ⟨l, d⟩⟩
  · rfl
  · rfl
  · simp at h

theorem resolve8_data7 {h l : Byte} (hh : h = 0x00 ∨ 0x80 ≤ h.toNat) (hl : 0x80 ≤ l.toNat) (r : Registry)
    (d : List Byte) : resolve8 r (h :: l :: d) = .error (.malformed .data7) := by
  have hstatus : isStatus l = true := by simpa [isStatus] using hl
  rcases hh with rfl | hh
  · simp [resolve8, hstatus]
  · have hne : h ≠ 0x00 := by
      rintro rfl
      simp at hh
    have hhigh : isStatus h = true := by simpa [isStatus] using hh
    rw [resolve8, if_neg hne, if_pos hhigh, if_pos hstatus]

theorem resolve8_other {h : Byte} (h0 : h ≠ 0x00) (hh : h.toNat < 0x80) (r : Registry) (l : Byte) (d : List Byte) :
    resolve8 r (h :: l :: d) = .error (.malformed .unregistered) := by
  have hdata : isStatus h = false := by simpa [isStatus] using hh
  rw [resolve8, if_neg h0, if_neg (ne_true_of_eq_false hdata)]

theorem resolve8_three (r : Registry) (b1 b2 : U7) (d : List Byte) :
    resolve8 r ((0x80 ||| b1.byte) :: b2.byte :: d)
      = if r.reg3 b1 b2 then .ok (.mfr3 b1 b2, 2) else .error (.malformed .unregistered) := by
  have hhigh : ∀ b : U7, (0x80 ||| b.byte) ≠ 0x00 ∧ isStatus (0x80 ||| b.byte) = true
      ∧ Byte.low7 (0x80 ||| b.byte) = b := by decide
  obtain ⟨hne, hstatus, hlow⟩ := hhigh b1
  rw [resolve8, if_neg hne, if_pos hstatus, if_neg (by simp), hlow, low7_byte]

theorem resolve8_one (r : Registry) (b : U7) (d : List Byte) :
    resolve8 r (0x00 :: b.byte :: d) = if r.reg1 b then .ok (.mfr1 b, 2) else if b = 0x7E then .ok (.universal false, 2)
      else if b = 0x7F then .ok (.universal true, 2) else .error (.malformed .unregistered) := by
  have hbyte : ∀ b : U7, (b.byte = 0x7E ↔ b = 0x7E) ∧ (b.byte = 0x7F ↔ b = 0x7F) := by decide
  obtain ⟨h7E, h7F⟩ := hbyte b
  rw [resolve8, if_pos rfl, if_neg (by simp), low7_byte]
  simp only [h7E, h7F]

/-- Settles O45: each width by the branches of its resolution. -/
theorem sysExIdOfRawBytes : Obligations.SysExIdOfRawBytes := by
  refine ⟨fun s => ⟨fun bs hbs => ?_, exec_sysexId7_of_eq (body := []) rfl,
    fun d hd => exec_sysexId7_of_eq (resolve7_short hd _),
    fun b1 b2 d hreg => exec_sysexId7_of_eq ((resolve7_three _ b1 b2 d).trans (if_pos hreg)),
    fun b1 b2 d hreg => exec_sysexId7_of_eq ((resolve7_three _ b1 b2 d).trans (if_neg (ne_true_of_eq_false hreg))),
    fun b d hb => ?_⟩,
    fun s => ⟨fun bs hbs => exec_sysexId8_of_eq (resolve8_short hbs _),
      fun h l d hh hl => exec_sysexId8_of_eq (resolve8_data7 hh hl _ d),
      fun h l d h0 hh => exec_sysexId8_of_eq (resolve8_other h0 hh _ l d),
      fun b1 b2 d hreg => exec_sysexId8_of_eq ((resolve8_three _ b1 b2 d).trans (if_pos hreg)),
      fun b1 b2 d hreg => exec_sysexId8_of_eq ((resolve8_three _ b1 b2 d).trans (if_neg (ne_true_of_eq_false hreg))),
      fun b d => ?_⟩⟩
  · rw [exec_sysexId, resolveId, asData_eq_none hbs]
    rfl
  · have hone := fun {x} h => exec_sysexId7_of_eq ((resolve7_one hb s.params.registry d).trans (c := x) h)
    refine ⟨fun hreg => hone (if_pos hreg), fun hreg h7E => ?_, fun hreg h7F => ?_, fun hreg h7E h7F => ?_⟩
    all_goals replace hreg := ne_true_of_eq_false hreg
    · exact hone (by rw [if_neg hreg, if_pos h7E])
    · exact hone (by rw [if_neg hreg, if_neg (h7F ▸ by decide), if_pos h7F])
    · exact hone (by rw [if_neg hreg, if_neg h7E, if_neg h7F])
  · have hone := fun {x} h => exec_sysexId8_of_eq ((resolve8_one s.params.registry b d).trans (c := x) h)
    refine ⟨fun hreg => hone (if_pos hreg), fun hreg h7E => ?_, fun hreg h7F => ?_, fun hreg h7E h7F => ?_⟩
    all_goals replace hreg := ne_true_of_eq_false hreg
    · exact hone (by rw [if_neg hreg, if_pos h7E])
    · exact hone (by rw [if_neg hreg, if_neg (h7F ▸ by decide), if_pos h7F])
    · exact hone (by rw [if_neg hreg, if_neg h7E, if_neg h7F])

end Sys2Proof.Machine
end

section
/-! PROOFS. The stream parser byte by byte (spec 44_stream_parser.md, R326 to R335): what FEED of each row's bytes emits
and what it leaves, from every context with the invariants. -/

namespace Sys2Proof.Machine

/-! ### Runs of one message -/

/-- A row's message reaches its context (R74, R321). -/
theorem next_receive {s : State} {c : Nat} {S S' : Ctx} {st : Byte} {d : List U7} {its : List Item}
    (hS : s.ctxs[c]? = some S)
    (h : feedBytes s.params (s.params.parserGroup c) (st :: d.map U7.byte) S = (its, S')) (t : U64) :
    (.next (receive c t st d s) : Step) = .next (s.emitted c S' t its) := by
  rw [receive_some hS, h]

/-- A message that leaves the context as it was. -/
theorem next_receive_self {s : State} {c : Nat} {S : Ctx} {st : Byte} {d : List U7} {its : List Item}
    (hS : s.ctxs[c]? = some S)
    (h : feedBytes s.params (s.params.parserGroup c) (st :: d.map U7.byte) S = (its, S)) (t : U64) :
    (.next (receive c t st d s) : Step) = .next (s.ended (.items (its.map fun it => (t, it)))) := by
  rw [next_receive hS h, State.emitted_self hS]

theorem feedBytes_singleton (p : Params) (g : U4) (b : Byte) (S : Ctx) :
    feedBytes p g [b] S = parserStep p g b S := by
  simp [feedBytes_cons]

/-! ### Real-time and reserved bytes (R329 to R331) -/

theorem feedBytes_reservedRealTime {b : Byte} (hb : b = 0xF9 ∨ b = 0xFD) (p : Params) (g : U4) (S : Ctx) :
    feedBytes p g [b] S = ([.er .reserved [b]], S) := by
  rcases hb with rfl | rfl <;> rfl

theorem feedBytes_reservedCommon {b : Byte} (hb : b = 0xF4 ∨ b = 0xF5) (p : Params) (g : U4) {S : Ctx}
    {max : Option Nat} (hS : S.Inv max) :
    feedBytes p g [b] S = (cutShort S ++ [.er .reserved [b]], quiet none) := by
  have hstep : parserStep p g b S = stepReservedCommon b S := by rcases hb with rfl | rfl <;> rfl
  rw [feedBytes_singleton, hstep, stepReservedCommon, close_items, close_eq_quiet hS]
  rfl

/-- Settles O49: a real-time byte is its whole message, and each reserved byte has its step. -/
theorem realTimeAndReservedBytesEmitTheirItem : Obligations.RealTimeAndReservedBytesEmitTheirItem := by
  constructor
  · intro c t s hc
    obtain ⟨S, hS⟩ := State.lt_nCtx_iff.mp hc
    have hrow : ∀ {b : Byte} {e : Event}, b ∈ ([0xF8, 0xFA, 0xFB, 0xFC, 0xFE, 0xFF] : List Byte) → need b = some 0 →
        messageEvent s.params.noteOnV0AsNoteOff b [] (s.params.parserGroup c) = some e →
        (.next (receive c t b [] s) : Step) = .next (s.ended (.items [(t, .ev e)])) := fun hb hneed he =>
      next_receive_self hS (feedBytes_realTime (d := []) hb hneed he S) t
    exact ⟨hrow (by decide) rfl rfl, hrow (by decide) rfl rfl, hrow (by decide) rfl rfl, hrow (by decide) rfl rfl,
      hrow (by decide) rfl rfl, hrow (by decide) rfl rfl⟩
  · intro c t s S hS
    exact ⟨next_receive_self (d := []) hS (feedBytes_reservedRealTime (.inl rfl) ..) t,
      next_receive_self (d := []) hS (feedBytes_reservedRealTime (.inr rfl) ..) t,
      fun hinv => ⟨next_receive (d := []) hS (feedBytes_reservedCommon (.inl rfl) _ _ hinv) t,
        next_receive (d := []) hS (feedBytes_reservedCommon (.inr rfl) _ _ hinv) t⟩⟩

/-! ### Messages with their status (R332, R334, R335) -/

theorem feedBytes_chanStatus {b : Byte} (hb : isChanStatus b = true) (p : Params) (g : U4) {S : Ctx}
    {max : Option Nat} (hS : S.Inv max) :
    feedBytes p g [b] S = (cutShort S, { quiet (some b) with pend := some b }) := by
  rw [feedBytes_singleton, parserStep_chan hb, stepStatus, close_items, close_eq_quiet hS]
  rfl

/-- Settles O50: the status byte's step, and each message by `feedBytes_chanMsg`. -/
theorem channelVoiceMessagesParse : Obligations.ChannelVoiceMessagesParse := by
  rintro c t s S ch _ a b hS hinv rfl
  have hrow : ∀ {nib : U4} {d : List U7} {e : Event}, 0x8 ≤ nib.toNat ∧ nib.toNat ≤ 0xE →
      (if nib.toNat = 0xC ∨ nib.toNat = 0xD then 1 else 2) = d.length →
      chanEvent s.params.noteOnV0AsNoteOff (chanStatus nib ch) d (s.params.parserGroup c) = some e →
      (.next (receive c t (chanStatus nib ch) d s) : Step)
        = .next (s.emitted c (quiet (some (chanStatus nib ch))) t (cutShort S ++ [.ev e])) :=
    fun hnib hlen he => next_receive hS (feedBytes_chanMsg hinv hnib hlen he) t
  rw [← join14_eq_or]
  refine ⟨fun st hst => exec_feed_of_feedBytes hS (feedBytes_chanStatus hst _ _ hinv) t, hrow (by decide) rfl ?_,
    hrow (by decide) rfl ?_, hrow (by decide) rfl ?_, hrow (by decide) rfl ?_, hrow (by decide) rfl ?_,
    hrow (by decide) rfl ?_, hrow (by decide) rfl ?_⟩
  case refine_2 => simp [chanEvent, apply_ite some, Attr.none]
  all_goals simp [chanEvent, Attr.none]

theorem feedBytes_commonStatus {b : Byte} (hb : b ∈ ([0xF1, 0xF2, 0xF3] : List Byte)) (p : Params) (g : U4) {S : Ctx}
    {max : Option Nat} (hS : S.Inv max) :
    feedBytes p g [b] S = (cutShort S, { quiet none with pend := some b }) := by
  have hstep : parserStep p g b S = ((close S).1, ((close S).2.running none).expect b) := by
    simp only [List.mem_cons, List.not_mem_nil, or_false] at hb
    rcases hb with rfl | rfl | rfl <;> rfl
  rw [feedBytes_singleton, hstep, close_items, close_eq_quiet hS]
  rfl

theorem feedBytes_tuneRequest (p : Params) (g : U4) {S : Ctx} {max : Option Nat} (hS : S.Inv max) :
    feedBytes p g [0xF6] S = (cutShort S ++ [.ev (.tuneRequest g)], quiet none) := by
  have hstep : parserStep p g 0xF6 S = ((close S).1 ++ [.ev (.tuneRequest g)], (close S).2.running none) := rfl
  rw [feedBytes_singleton, hstep, close_items, close_eq_quiet hS]
  rfl

/-- Settles O51: the status byte's step, each message with data bytes by `feedBytes_common`, and F6. -/
theorem systemCommonMessagesParse : Obligations.SystemCommonMessagesParse := by
  rintro c t s S _ a b hS hinv rfl
  have hrow : ∀ {st : Byte} {d : List U7} {e : Event}, st = 0xF1 ∨ st = 0xF2 ∨ st = 0xF3 → isComplete st d →
      eventOf s.params (s.params.parserGroup c) st d = some e →
      (.next (receive c t st d s) : Step) = .next (s.emitted c (quiet none) t (cutShort S ++ [.ev e])) :=
    fun hst hcomplete he => next_receive hS (feedBytes_common hinv hst hcomplete he) t
  rw [← join14_eq_or]
  exact ⟨fun st hst => exec_feed_of_feedBytes hS (feedBytes_commonStatus hst _ _ hinv) t,
    hrow (.inl rfl) rfl rfl, hrow (.inr (.inl rfl)) rfl rfl, hrow (.inr (.inr rfl)) rfl rfl,
    next_receive (d := []) hS (feedBytes_tuneRequest _ _ hinv) t⟩

/-! ### SysEx (R326, R327, R333) -/

/-- Settles O52: F0 opens an empty SysEx and the body goes to its accumulator. -/
theorem sysExStartOpensAndAccumulates : Obligations.SysExStartOpensAndAccumulates := by
  intro c t s S body hS hinv
  refine next_receive hS ?_ t
  have hstart : parserStep s.params (s.params.parserGroup c) 0xF0 S = (cutShort S, inSysEx S.rs [] false) := by
    change stepSysExStart S = _
    rw [stepSysExStart, close_items, close_eq_quiet hinv]
    rfl
  rw [feedBytes_cons, hstart, feedBytes_body _ _ _ _ _ _ (fun _ _ => Nat.zero_le _)]
  simp

theorem endSysEx_eq_quiet {S : Ctx} {max : Option Nat} (hS : S.Inv max) (hsx : S.sx = true) :
    S.endSysEx = quiet S.rs := by
  rw [← close_eq_quiet hS, close, if_pos hsx]

theorem feedBytes_eox_open (p : Params) (g : U4) {S : Ctx} {max : Option Nat} (hS : S.Inv max) (hsx : S.sx = true) :
    feedBytes p g [0xF7] S = ([sysExItem p g S], quiet S.rs) := by
  rw [feedBytes_singleton]
  change stepEox p g S = _
  rw [stepEox, if_pos hsx, endSysEx_eq_quiet hS hsx]

theorem feedBytes_eox_stray (p : Params) (g : U4) {S : Ctx} {max : Option Nat} (hS : S.Inv max) (hsx : S.sx = false) :
    feedBytes p g [0xF7] S = (cutShort S ++ [.er .strayEox [0xF7]], quiet S.rs) := by
  rw [feedBytes_singleton]
  change stepEox p g S = _
  rw [stepEox, if_neg (ne_true_of_eq_false hsx), close_items, close_eq_quiet hS]

/-- Settles O53: an open SysEx ends with its item, by the three cases of `sysExItem`; else the byte is stray. -/
theorem endOfExclusiveClosesOrIsStray : Obligations.EndOfExclusiveClosesOrIsStray := by
  intro c t s S hS hinv
  have hopen : ∀ {it : Item}, S.sx = true → sysExItem s.params (s.params.parserGroup c) S = it →
      exec (.m1Eox c t) s = .next (s.emitted c (quiet S.rs) t [it]) := fun hsx hit =>
    hit ▸ next_receive (d := []) hS (feedBytes_eox_open _ _ hinv hsx) t
  refine ⟨fun hsx hovf => hopen hsx ?_, fun e hsx hovf he => hopen hsx ?_, fun e hsx hovf he => hopen hsx ?_,
    fun hsx => next_receive (d := []) hS (feedBytes_eox_stray _ _ hinv hsx) t⟩
  · rw [sysExItem, if_pos hovf]
  · rw [sysExItem, if_neg (ne_true_of_eq_false hovf), he]
  · rw [sysExItem, if_neg (ne_true_of_eq_false hovf), he]

/-! ### A data byte (R333, R334) -/

theorem append_inSysEx_of_room {max : Option Nat} {acc : List U7} (h : ∀ m, max = some m → acc.length < m)
    (rs : Option Byte) (ovf : Bool) (b : U7) :
    (inSysEx rs acc ovf).append max b = inSysEx rs (acc ++ [b]) ovf := by
  cases max with
  | none => rfl
  | some m => exact if_pos (h m rfl)

theorem append_inSysEx_of_full (acc : List U7) (rs : Option Byte) (ovf : Bool) (b : U7) :
    (inSysEx rs acc ovf).append (some acc.length) b = inSysEx rs acc true := if_neg (Nat.lt_irrefl _)

/-- A context with the data bytes `pd` of the pending message `st`. -/
def collecting (rs : Option Byte) (st : Byte) (pd : List U7) : Ctx := { quiet rs with pend := some st, pd := pd }

theorem collect_complete {p : Params} {g : U4} {st : Byte} {pd : List U7} {b : U7} {e : Event}
    (hcomplete : isComplete st (pd ++ [b])) (he : eventOf p g st (pd ++ [b]) = some e) (rs : Option Byte) :
    collect p g st b (collecting rs st pd) = ([.ev e], quiet rs) := by
  have hitems : evItems (eventOf p g st (pd ++ [b])) = [.ev e] := congrArg evItems he
  exact (if_pos hcomplete).trans (Prod.ext hitems rfl)

theorem collect_incomplete {st : Byte} {pd : List U7} {b : U7} (h : ¬isComplete st (pd ++ [b])) (p : Params) (g : U4)
    (rs : Option Byte) : collect p g st b (collecting rs st pd) = ([], collecting rs st (pd ++ [b])) := if_neg h

/-- Outside a SysEx a data byte joins the pending message, or one begun by running status. -/
theorem stepData_eq_collect {S : Ctx} {max : Option Nat} {st : Byte} {d : List U7} {b : U7} (hS : S.Inv max)
    (hsx : S.sx = false) (h : S.pend = some st ∧ d = S.pd ++ [b] ∨ S.pend = none ∧ S.rs = some st ∧ d = [b])
    (p : Params) (g : U4) :
    ∃ pd, d = pd ++ [b] ∧ stepData p g b S = collect p g st b (collecting S.rs st pd) := by
  rcases h with ⟨hpend, rfl⟩ | ⟨hpend, hrs, rfl⟩
  · refine ⟨S.pd, rfl, ?_⟩
    have hcollecting : S = collecting S.rs st S.pd := by
      rw [collecting, ← hpend]
      exact eq_collecting hS hsx
    rw [stepData, hpend, ← hcollecting]
  · refine ⟨[], rfl, ?_⟩
    have hexpect : S.expect st = collecting S.rs st [] := congrArg (Ctx.expect · st) (eq_quiet hS hsx hpend)
    rw [stepData, hpend, ← hexpect]
    simp only [hrs]

theorem isPendStatus_bounds : ∀ {b : Byte}, isPendStatus b = true → b.toNat ≤ 0xF6 ∧ b ≠ 0xF9 ∧ b ≠ 0xFD := by decide

/-- Settles O54: an open SysEx appends or drops the byte, no status makes it an orphan, and else it is collected. -/
theorem dataByteAccumulatesCollectsOrIsOrphan : Obligations.DataByteAccumulatesCollectsOrIsOrphan := by
  intro c t s S b hS hinv
  have hrow : ∀ {its S'}, parserStep s.params (s.params.parserGroup c) b.byte S = (its, S') →
      exec (.m1DataByte c t b) s = .next (s.emitted c S' t its) := fun h =>
    exec_feed_of_feedBytes hS ((feedBytes_singleton ..).trans h) t
  rw [parserStep_data] at hrow
  have hopen : S.sx = true → exec (.m1DataByte c t b) s
      = .next (s.emitted c ((inSysEx S.rs S.acc S.ovf).append s.params.sysexMax b) t []) := by
    intro hsx
    rw [← eq_inSysEx hinv hsx]
    exact hrow (if_pos hsx)
  have hclosed : ∀ {its S'}, S.sx = false → stepData s.params (s.params.parserGroup c) b S = (its, S') →
      exec (.m1DataByte c t b) s = .next (s.emitted c S' t its) := fun hsx h =>
    hrow ((if_neg (ne_true_of_eq_false hsx)).trans h)
  refine ⟨fun hsx hroom => ?_, fun hsx hfull => ?_, fun hsx hpend hrs => ?_, fun st d hsx hst => ?_⟩
  · rw [hopen hsx, append_inSysEx_of_room hroom]
  · rw [hopen hsx, hfull, append_inSysEx_of_full]
  · rw [hclosed hsx (its := [.er .orphan [b.byte]]) (S' := S) (by rw [stepData, hpend, hrs]), State.emitted_self hS]
    rfl
  · obtain ⟨pd, rfl, hcollect⟩ := stepData_eq_collect hinv hsx hst s.params (s.params.parserGroup c)
    have hpendStatus : isPendStatus st = true := by
      rcases hst with ⟨hpend, -⟩ | ⟨-, hrs, -⟩
      · exact hinv.pendRange st hpend
      · exact isPendStatus_of_chan (hinv.rsRange st hrs)
    obtain ⟨hle, h9, hD⟩ := isPendStatus_bounds hpendStatus
    refine ⟨fun hcomplete => ?_, fun hincomplete =>
      hclosed hsx (hcollect.trans (collect_incomplete hincomplete ..))⟩
    obtain ⟨e, he⟩ := messageEvent_isSome hcomplete h9 hD s.params.noteOnV0AsNoteOff (s.params.parserGroup c)
    exact ⟨e, he, exec_decM1_of_eq (decM1_complete hcomplete h9 hD he),
      hclosed hsx (hcollect.trans (collect_complete hcomplete ((eventOf_eq_messageEvent hle ..).trans he) _))⟩

end Sys2Proof.Machine
end
